-- ==== Sys2Proof/Word.lean ====
section
/-! DEFINITION. The words the part handles: link words, stored samples, sample-counter values, cue sets. -/

namespace Sys2Proof

/-- A link word: 32 bits, bit 31 the most significant (scope, number formats; chapter 10). -/
abbrev Word := BitVec 32

/-- A stored or streamed sample: 16-bit two's complement (R1, R85). -/
abbrev Sample := BitVec 16

/-- A value of the 48-bit sample counter, wrapping after 2^48 − 1 (R184). -/
abbrev Counter := BitVec 48

/-- A set of cue numbers 0..63: bit m stands for cue m, as CH-MASK lays it out (R178). -/
abbrev CueSet := BitVec 64

end Sys2Proof
end

