-- ==== Sys2Proof/Config.lean ====
section
/-! DEFINITION. The sizes the part fixes, and the free values of what the manual leaves open. -/

namespace Sys2Proof.Config

/-- Store words: 256K samples (R1). -/
abbrev storeWords : Nat := 262144
/-- Steps a list can hold (R20). -/
abbrev listSteps : Nat := 64
/-- Samples a stream buffer can hold (R85). -/
abbrev streamCapacity : Nat := 8192
/-- The largest debt; increases saturate here (R85, R93). -/
abbrev maxDebt : Nat := 16777215
/-- Entries of the cue send queue (R117). -/
abbrev sendQueueEntries : Nat := 8
/-- Entries of the delivery list (R127). -/
abbrev deliveryEntries : Nat := 16
/-- Records of the event queue (R180). -/
abbrev eventRecords : Nat := 32
/-- Lost attempts after which a cue entry is removed (R111). -/
abbrev maxAttempts : Nat := 4
/-- The most words a window's frame can have (R156, R158). -/
abbrev maxWindowWords : Nat := 258
/-- The most payload words a frame can declare (R159). -/
abbrev maxPayload : Nat := 256

/-- FREE VALUE (log entry 10): how far the background clear has come, in words, when the `n`-th free
value is drawn. The manual gives a least rate and no count (R7, R8). -/
opaque clearProgress : Nat → Nat

/-- FREE VALUE (log entry 11): how many CLKIN edges of the current sample period have passed when a
DEV-RESET ALL is taken (R183, R189). -/
opaque edgesIntoPeriod : Nat → Nat

/-- FREE VALUE (log entry 11): whether the CLKIN edge with reference-edge count 0 that lies strictly
inside the current sample period has already passed when a DEV-CONFIG is taken (R183). -/
opaque zeroEdgePassed : Nat → Bool

end Sys2Proof.Config
end

