-- ==== Sys2Proof/Syntax.lean ====
section
/-! DEFINITION. The commands of the part: one constructor per row of spec/opcode_table.json, with operands. -/

namespace Sys2Proof

/-- The four output channels (scope, conventions). -/
inductive Ch where
  | ch0 | ch1 | ch2 | ch3
  deriving DecidableEq, Repr

/-- The two trigger inputs (R121). -/
inductive TrigPin where
  | trig0 | trig1
  deriving DecidableEq, Repr

/-- The two wires of the cue line (R103). -/
inductive CueLine where
  | cueck | cuedt
  deriving DecidableEq, Repr

/-- What can come about at the cue line next, in the order in which it comes about (R103, R105, R106; log
entry 14). -/
inductive LineMove where
  /-- Some other part drives wire `l` low. -/
  | pull (l : CueLine)
  /-- No other part drives wire `l` low any more. -/
  | release (l : CueLine)
  /-- The H that the part itself times has passed: a start hold, a low half, a high half, the test of the
  stop, or the last low half of an abandoned frame (R107, R108, R110, R123). -/
  | holdEnds
  /-- The idle timer reaches 2H (R106). -/
  | idleEnough
  deriving DecidableEq, Repr

/-- A message as its frame carries it (R159, R171): the CHANNEL and HALF fields of the header and the
payload words. KIND is the row's; LENGTH is the number of payload words; the header's reserved bits are
not read by the part and are not carried (log entry 15). -/
structure Msg where
  channel : BitVec 3 := 7#3
  half    : Bool := false
  payload : List Word := []
  deriving DecidableEq, Repr

/-- Everything clocked in during one selection window (R156): the whole words, first word first, and the
odd bits after the last whole word. -/
structure Window where
  words : List Word
  tail  : List Bool := []
  deriving DecidableEq, Repr

/-- The levels the part finds on its pins when power-on or pin reset ends, and the die reading it takes
there; `ckLow` and `dtLow` say that another part drives CUECK or CUEDT low (R103, R121, R155, R157, R187). -/
structure Pins where
  mksel   : BitVec 3
  attnsel : Bool
  trig0   : Bool
  trig1   : Bool
  flt0    : Bool := false
  flt1    : Bool := false
  flt2    : Bool := false
  flt3    : Bool := false
  selLow  : Bool := false
  ckLow   : Bool := false
  dtLow   : Bool := false
  reading : Int
  deriving DecidableEq, Repr

/-- The commands. Message rows carry the message; the rows of the cue line carry the `moves` of the line since
the last of them, up to and with the row's own moment, none if not given (log entry 14); `turns` is the order
in which the four channels are taken at one boundary (log entry 6). -/
inductive Instr where
  /-- NOP (R165). -/
  | nop (m : Msg)
  /-- IDENTIFY (R186). -/
  | identify (m : Msg)
  /-- DEV-CONFIG (R185). -/
  | devConfig (m : Msg)
  /-- DEV-STATUS (R186). -/
  | devStatus (m : Msg)
  /-- DEV-RESET with scope PLAYBACK (R188). -/
  | devResetPlayback (m : Msg)
  /-- DEV-RESET with scope ALL (R189); `reading` is the die reading taken at the reset. -/
  | devResetAll (m : Msg) (reading : Int)
  /-- EVENT-READ (R182). -/
  | eventRead (m : Msg)
  /-- SEG-DEFINE (R6). -/
  | segDefine (m : Msg)
  /-- SEG-WRITE (R9). -/
  | segWrite (m : Msg)
  /-- SEG-SEAL (R10). -/
  | segSeal (m : Msg)
  /-- SEG-DELETE (R11). -/
  | segDelete (m : Msg)
  /-- SEG-QUERY (R14). -/
  | segQuery (m : Msg)
  /-- MEM-QUERY (R15). -/
  | memQuery (m : Msg)
  /-- CH-CONFIG (R63). -/
  | chConfig (m : Msg)
  /-- CH-MASK (R132). -/
  | chMask (m : Msg)
  /-- CH-STATUS (R65). -/
  | chStatus (m : Msg)
  /-- CH-RESTORE (R147). -/
  | chRestore (m : Msg)
  /-- LIST-CLEAR (R33). -/
  | listClear (m : Msg)
  /-- LIST-APPEND (R29). -/
  | listAppend (m : Msg)
  /-- LIST-REPLACE (R32). -/
  | listReplace (m : Msg)
  /-- LIST-READ (R35). -/
  | listRead (m : Msg)
  /-- CH-START (R42). -/
  | chStart (m : Msg)
  /-- CH-STOP (R60). -/
  | chStop (m : Msg)
  /-- STREAM-DATA (R88). -/
  | streamData (m : Msg)
  /-- STREAM-FLUSH (R95). -/
  | streamFlush (m : Msg)
  /-- CUE-SEND (R120). -/
  | cueSend (m : Msg)
  /-- TRIG-CONFIG (R122). -/
  | trigConfig (m : Msg)
  /-- SELECTION_WINDOW: SEL# rises on window `w` (R158); `reading` is the die reading of that moment,
  used only if the window turns out to carry a DEV-RESET ALL (log entry 17). -/
  | selectionWindow (w : Window) (reading : Int)
  /-- POWER_ON (R190). -/
  | powerOn (p : Pins)
  /-- PIN_RESET_ASSERT: RESET# falls (R190). -/
  | pinResetAssert
  /-- PIN_RESET_END: RESET# rises (R190). -/
  | pinResetEnd (p : Pins)
  /-- SAMPLE_BOUNDARY (R41); the channels in `deferred` leave the resolution of a step end found at this
  boundary to a later command (log entry 7). -/
  | sampleBoundary (turns deferred : List Ch)
  /-- START_TIME_REACHED for channel `n` (R46). -/
  | startTimeReached (n : Ch) (turns : List Ch)
  /-- PRIMING_MET for channel `n` (R51). -/
  | primingMet (n : Ch) (turns : List Ch)
  /-- REPEAT_BOUNDARY for channel `n` (R53). -/
  | repeatBoundary (n : Ch)
  /-- STREAM_LENGTH_REACHED for channel `n` (R55); it also tells the end of a step that underran, which has no
  row of its own (log entry 7). -/
  | streamLengthReached (n : Ch)
  /-- MARKER_WIDTH_END for channel `n` (R59). -/
  | markerWidthEnd (n : Ch) (turns : List Ch)
  /-- DIVIDER_SWITCH (R183). -/
  | dividerSwitch (turns : List Ch)
  /-- SEG_CLEAR_DONE (R7). -/
  | segClearDone
  /-- FRAME_START (R106): after `moves` the transmitter begins. -/
  | frameStart (moves : List LineMove := [])
  /-- FRAME_SENT (R108): the last of `moves` completes the part's own stop condition. -/
  | frameSent (moves : List LineMove := [])
  /-- ARBITRATION_LOST (R109): the last of `moves` shows what the part's own frame does not call for. -/
  | arbitrationLost (moves : List LineMove := [])
  /-- FRAME_RECEIVED (R113): the last of `moves` is the stop condition or ends the eighth bit; `onBoundary`
  says that the CLKIN edge noting the stop is the edge of the boundary still to be taken (R125, R128). -/
  | frameReceived (moves : List LineMove) (onBoundary : Bool)
  /-- STALLED_FRAME (R115), 1 ms after `moves`. -/
  | stalledFrame (moves : List LineMove := [])
  /-- STUCK_LINE on line `l` (R116), 1 ms after `moves`. -/
  | stuckLine (l : CueLine) (moves : List LineMove := [])
  /-- CUE_EFFECTIVE_SAMPLE (R129). -/
  | cueEffectiveSample (turns : List Ch)
  /-- TRIG_PIN_CHANGE: pin `t` goes to `level` (R121). -/
  | trigPinChange (t : TrigPin) (level : Bool)
  /-- TRIG_EDGE_QUALIFIED on pin `t` (R121). -/
  | trigEdgeQualified (t : TrigPin)
  /-- FAULT_ASSERT: FLTn# falls (R140). -/
  | faultAssert (n : Ch)
  /-- FAULT_RELEASE: FLTn# rises (R143). -/
  | faultRelease (n : Ch)
  /-- FAULT_QUALIFIED on channel `n` (R140). -/
  | faultQualified (n : Ch)
  /-- ESCALATION_EXPIRY on channel `n` (R143). -/
  | escalationExpiry (n : Ch)
  /-- TEMP_READING (R150). -/
  | tempReading (reading : Int)
  /-- ATTN_PULSE_END (R169). -/
  | attnPulseEnd
  /-- START_CONDITION (R113): after `moves` another part drives CUEDT low. -/
  | startCondition (moves : List LineMove)
  /-- STUCK_LINE_RELEASED on line `l` (R116): after `moves` no other part drives it low any more. -/
  | stuckLineReleased (l : CueLine) (moves : List LineMove := [])
  deriving DecidableEq, Repr

end Sys2Proof
end

