-- ==== Sys2Proof/Decode.lean ====
section
/-! DEFINITION. Reading a command from the bits of spec/opcode_table.json. -/

namespace Sys2Proof

/-- No row of the table gives bits (every row's fields are empty), so no word spells a command (log entry
23). How a message's bits are read from a selection window is the part's own work: Machine/Link.lean. -/
def decodeTableWord (_nbits _w : Nat) : Option Instr := none

end Sys2Proof
end

