-- ==== Sys2Proof/Machine/State.lean ====
section
/-! DEFINITION. The state of the part, block by block as the manual's functional block diagram names them, and the state right after reset. -/

namespace Sys2Proof.Machine

/-- Four values, one per channel. -/
structure Quad (α : Type) where
  c0 : α
  c1 : α
  c2 : α
  c3 : α
  deriving DecidableEq, Repr

/-- The value of channel `n`. -/
def Quad.get {α : Type} (q : Quad α) : Ch → α
  | .ch0 => q.c0
  | .ch1 => q.c1
  | .ch2 => q.c2
  | .ch3 => q.c3

/-- The four values with channel `n`'s replaced. -/
def Quad.set {α : Type} (q : Quad α) (n : Ch) (a : α) : Quad α :=
  match n with
  | .ch0 => { q with c0 := a }
  | .ch1 => { q with c1 := a }
  | .ch2 => { q with c2 := a }
  | .ch3 => { q with c3 := a }

/-! ### Segment Store and Segment Table (chapter 1) -/

/-- The sample store as (word address, sample) pairs: addresses strictly rising, no sample equal to 0,
which is what an unlisted word reads as (R1; log entry 9). -/
abbrev Memory := List (Nat × Sample)

/-- Life-cycle state of a segment (R2). -/
inductive SegState where
  | clearing | opened | sealed
  deriving DecidableEq, Repr

/-- One segment record (R2). -/
structure Segment where
  id      : Nat
  state   : SegState
  base    : Nat
  len     : Nat
  play    : Nat
  alloc   : Nat
  padded  : Bool
  cleared : Nat
  refs    : Nat
  deriving DecidableEq, Repr

/-- One record of the free-region list (R3). -/
structure Region where
  base : Nat
  len  : Nat
  deriving DecidableEq, Repr

/-- Segment Store, segment records in id order, free-region list, clear list (R1, R2, R3, R7). -/
structure SegMem where
  store     : Memory := []
  segs      : List Segment := []
  free      : List Region := [⟨0, Config.storeWords⟩]
  clearList : List Nat := []
  deriving DecidableEq, Repr

/-! ### Step lists (chapter 2) -/

/-- What a step plays (R22). -/
inductive Source where
  | memory (seg : Nat)
  | stream
  deriving DecidableEq, Repr

/-- A step's marker: the outputs named and the width in played samples (R24). -/
structure Marker where
  a     : Bool
  b     : Bool
  width : Nat
  deriving DecidableEq, Repr

/-- A step's jump; count 0 means forever (R25). -/
structure Jump where
  target : Nat
  count  : Nat
  deriving DecidableEq, Repr

/-- A step record (R21). -/
structure StepRecord where
  source  : Source
  repeats : Nat
  length  : Option Nat
  rate    : Nat
  gain    : Int
  offset  : Int
  wait    : Option Nat
  leave   : Option Nat
  emit    : Option Nat
  marker  : Option Marker
  jump    : Option Jump
  deriving DecidableEq, Repr

/-- A slot of a step list: the record and its loops-remaining counter (R20, R26). -/
structure Slot where
  record : StepRecord
  loops  : Nat
  deriving DecidableEq, Repr

/-! ### Channel sequencers, sample path, stream buffers (chapters 3, 4, 5, 7) -/

/-- Playback state of a channel (R39). -/
inductive Playback where
  | idle | armed | running | done
  deriving DecidableEq, Repr

/-- Step phase of a RUNNING channel (R39). -/
inductive Phase where
  | waiting | priming | playing
  deriving DecidableEq, Repr

/-- What an ARMED channel waits for (R40). -/
inductive StartCond where
  | none
  | cue (n : Nat)
  | time (t : Counter)
  deriving DecidableEq, Repr

/-- A step end found at a boundary whose resolution is still to come (R41 stage 5; log entry 7). -/
inductive Owed where
  | nothing
  /-- A memory step's repeat boundary (R53). -/
  | repeatBoundary
  /-- A stream step's end, at its length or by underrun (R55). -/
  | streamEnd
  deriving DecidableEq, Repr

/-- The run record (R40), with the start boundary of R41, the next index a step end has resolved (R56)
and a step end still to be resolved. The hold code stands in the channel. -/
structure RunRecord where
  start       : StartCond := .none
  startAt     : Option Counter := .none
  step        : Nat := 0
  phase       : Phase := .waiting
  i           : Nat := 0
  f           : Nat := 0
  repeatsLeft : Nat := 0
  leave       : Bool := false
  markerLeft  : Nat := 0
  consumed    : Nat := 0
  next        : Option Nat := .none
  owed        : Owed := .nothing
  deriving DecidableEq, Repr

/-- End action (R57, R63). -/
inductive EndAction where
  | park | hold
  deriving DecidableEq, Repr

/-- The six channel settings (R63). -/
structure Settings where
  lmin      : Int := -32768
  lmax      : Int := 32767
  park      : Int := 0
  endAction : EndAction := .park
  lowMark   : Nat
  highMark  : Nat
  prime     : Nat := 1024
  deriving DecidableEq, Repr

/-- A stream buffer: the FIFO, oldest sample first, and the debt (R85). -/
structure StreamBuffer where
  fifo : List Sample := []
  debt : Nat := 0
  deriving DecidableEq, Repr

/-- Levels of a channel's two marker outputs (R59). -/
structure MarkerLevels where
  a : Bool := false
  b : Bool := false
  deriving DecidableEq, Repr

/-- A signed code and the marker levels that go with it (R66). -/
structure Presented where
  code    : Int := 0
  markers : MarkerLevels := {}
  deriving DecidableEq, Repr

/-- What a channel's output pins are driven with: the offset-binary DAC code on the bus D0n..D15n (R73) and
the marker levels (R81). -/
structure Driven where
  bus     : BitVec 16 := 0x8000#16
  markers : MarkerLevels := {}
  deriving DecidableEq, Repr

/-- STBn: one pulse in each sample period, or held low during a pin reset (R80, R82). -/
inductive Strobe where
  | runs | heldLow
  deriving DecidableEq, Repr

/-- The way to the pins: the codes presented one, two and three boundaries ago that have not reached the
pins, newest first, what the pins are driven with, and STBn (R80, R81, R82). -/
structure OutputPins where
  d1     : Presented := {}
  d2     : Presented := {}
  d3     : Presented := {}
  pin    : Driven := {}
  strobe : Strobe := .runs
  deriving DecidableEq, Repr

/-- The state of one channel: step list (R20), sequencer (R39, R40, R63, R132, R134), sample path (R75,
R77, R84) and stream buffer (R85). -/
structure Channel where
  list        : List Slot := []
  playback    : Playback := .idle
  run         : RunRecord := {}
  mask        : CueSet := 0
  pendingCues : CueSet := 0
  settings    : Settings
  stream      : StreamBuffer := {}
  hold        : Int := 0
  markers     : MarkerLevels := {}
  clip        : Bool := false
  limit       : Bool := false
  out         : OutputPins := {}
  deriving DecidableEq, Repr

/-! ### Cue Controller (chapters 6 and 7) -/

/-- The cue half-period H: 0.5, 1, 2 or 4 µs (R105). -/
inductive HalfPeriod where
  | half | one | two | four
  deriving DecidableEq, Repr

/-- Where a queued cue came from (R117). -/
inductive CueSource where
  | cueSend
  | stepEmit (n : Ch) (step : Nat)
  | trigger (t : TrigPin)
  deriving DecidableEq, Repr

/-- An entry of the cue send queue (R117). -/
structure SendEntry where
  cue      : Nat
  source   : CueSource
  attempts : Nat := 0
  deriving DecidableEq, Repr

/-- An entry of the delivery list (R127). -/
structure Delivery where
  cue    : Nat
  effect : Counter
  deriving DecidableEq, Repr

/-- One wire of the cue line: whether the part drives it low and whether some other part does. It reads low
while either does (R103). -/
structure Wire where
  own    : Bool := false
  others : Bool := false
  deriving DecidableEq, Repr

/-- Where the part's own frame stands on the wires. Bits are counted from 0: 0 to 6 are the seven bits, 7 is
the stop's low and high half (R107, R108, R110). -/
inductive SendPhase where
  /-- The start condition is driven and held. -/
  | startHold
  /-- The low half before the high half of bit `j`. -/
  | low (j : Nat)
  /-- CUECK is released and still reads low: another part stretches the low half of bit `j`. -/
  | wait (j : Nat)
  /-- The high half of bit `j`. -/
  | high (j : Nat)
  /-- CUEDT is released for the stop and still reads low. -/
  | stopTest
  /-- The stop condition is made: FRAME_SENT is the next to be told (log entry 14). -/
  | made
  /-- The frame is lost and nothing is driven: ARBITRATION_LOST is the next to be told (log entry 14). -/
  | lost
  deriving DecidableEq, Repr

/-- The part's frame in flight: the half-period it is sent with (R105), and where it stands. -/
structure Frame where
  half  : HalfPeriod
  phase : SendPhase
  deriving DecidableEq, Repr

/-- The receiver (R113). -/
inductive Receiver where
  | outside
  /-- Inside a frame, with the bits kept, first bit first; `started` says that CUECK has not fallen since the
  start condition, so that this high half is no bit (R103). -/
  | inside (bits : List Bool) (started : Bool)
  /-- At a stop condition or an eighth bit, with all the bits: FRAME_RECEIVED is the next to be told (log
  entry 14). -/
  | ended (bits : List Bool)
  /-- At a start condition inside a frame: START_CONDITION is the next to be told (log entry 14). -/
  | reopened
  deriving DecidableEq, Repr

/-- The edge a trigger is configured for (R122). -/
inductive TrigEdge where
  | rising | falling
  deriving DecidableEq, Repr

/-- One trigger: its three settings, its qualified level and its pin's level (R121, R122). -/
structure Trigger where
  enable    : Bool := false
  edge      : TrigEdge := .rising
  cue       : Nat := 0
  qualified : Bool := false
  pin       : Bool := false
  deriving DecidableEq, Repr

/-- The Cue Controller (R103, R105, R106, R113, R116, R117, R121, R127). `idleEnough` says that the idle timer
has reached 2H. CUECK driven with no frame in flight is the last low half of an abandoned frame (R123). -/
structure CueController where
  sendQ    : List SendEntry := []
  inFlight : Option Frame := none
  receiver : Receiver := .outside
  ck       : Wire := {}
  dt       : Wire := {}
  idleEnough : Bool := false
  stuckCk  : Bool := false
  stuckDt  : Bool := false
  delivery : List Delivery := []
  trig0    : Trigger := {}
  trig1    : Trigger := {}
  deriving DecidableEq, Repr

/-! ### Output Protection Unit (chapter 8) -/

/-- Protection state of a channel (R141). -/
inductive ProtState where
  | normal | derated | shut
  deriving DecidableEq, Repr

/-- Why a channel is DERATED (R141). -/
inductive DerateCause where
  | none | fault | temp
  deriving DecidableEq, Repr

/-- The qualification timer of a fault input: stopped at 0, running, or stopped with the assertion
qualified (R140). -/
inductive QualTimer where
  | stopped | running | qualified
  deriving DecidableEq, Repr

/-- The protection record of a channel, its fault input and its enable output (R140, R141, R149). -/
structure Protection where
  state      : ProtState := .normal
  cause      : DerateCause := .none
  asserted   : Bool := false
  qual       : QualTimer := .stopped
  escalating : Bool := false
  enable     : Bool := true
  deriving DecidableEq, Repr

/-- Temperature state of the die (R150). -/
inductive TempState where
  | cool | warm | lock
  deriving DecidableEq, Repr

/-- The die temperature: state and last reading (R150). -/
structure DieTemp where
  state   : TempState := .cool
  reading : Int := 0
  deriving DecidableEq, Repr

/-! ### Link Interface (chapters 9 and 10) -/

/-- Reply codes (R172). -/
inductive ReplyCode where
  | ok | reset | badFrame | badCheck | unknown | badChan | badVal | busy | noSpace | notFound | exists
  | inUse | notReady | sealed | full | locked | shut
  deriving DecidableEq, Repr

/-- The six summary bits of a reply header (R164). -/
structure Summary where
  ev     : Bool := false
  evLost : Bool := false
  tWarn  : Bool := false
  tLock  : Bool := false
  der    : Bool := false
  shut   : Bool := false
  deriving DecidableEq, Repr

/-- A reply: echoed kind, code, summary bits, payload words (R163). -/
structure Reply where
  kind    : BitVec 8
  code    : ReplyCode
  summary : Summary := {}
  payload : List Word := []
  deriving DecidableEq, Repr

/-- What a window carried out on SDO: the reply that was pending and the number of bits shifted out
while the window lasted, zero bits after the check word included (R163, R165). -/
structure CarriedOut where
  reply : Reply
  bits  : Nat
  deriving DecidableEq, Repr

/-- The Link Interface (R156, R157, R163). -/
structure Link where
  rxBuffer   : List Word := []
  bitCount   : Nat := 0
  reply      : Reply
  carriedOut : Option CarriedOut := none
  awaitRise  : Bool := false
  deriving DecidableEq, Repr

/-! ### Event Queue and Device Control (chapters 9 and 11) -/

/-- The seventeen kinds of event (R179). -/
inductive EventKind where
  | seqDone | startLate | streamLow | streamHigh | streamUnderrun | cueLost | cueDropped | cueError
  | stopCue | clip | limit | overload | shutdown | tempWarn | tempLock | tempClear | segCleared
  deriving DecidableEq, Repr

/-- An event record (R180). -/
structure Event where
  kind    : EventKind
  channel : Option Ch := none
  step    : Option Nat := none
  value   : Option Word := none
  stamp   : Word
  deriving DecidableEq, Repr

/-- The Event Queue: records, oldest first, lost indicator, the ATTN# line (true: asserted) and whether
the pulse timer runs (R168, R169, R180, R181). -/
structure EventQueue where
  records : List Event := []
  lost    : Bool := false
  attn    : Bool := false
  pulse   : Bool := false
  deriving DecidableEq, Repr

/-- ATTN mode (R168, R169). -/
inductive AttnMode where
  | level | pulse
  deriving DecidableEq, Repr

/-- Device Control (R183, R184, R185, R187). `refEdge` is the reference-edge count of the CLKIN edge of
the last boundary, none before the first edge (log entry 11). -/
structure Device where
  divider        : Nat := 1
  pendingDivider : Option Nat := none
  refEdge        : Option Nat := none
  zeroPassed     : Bool := false
  counter        : Counter := 0
  half           : HalfPeriod := .one
  attnMode       : AttnMode := .level
  align          : Nat := 16
  mksel          : BitVec 3 := 0
  attnsel        : Bool := false
  deriving DecidableEq, Repr

/-! ### The part -/

/-- The state of the part. `boundaryOpen` and `freeIndex` are the model's own (log entries 5 and 29);
`pending` is the queue of commands waiting, first in first out. -/
structure State where
  mem          : SegMem
  chans        : Quad Channel
  cue          : CueController
  prot         : Quad Protection
  temp         : DieTemp
  link         : Link
  events       : EventQueue
  dev          : Device
  boundaryOpen : Bool
  resetHeld    : Bool
  freeIndex    : Nat
  pending      : List Instr
  deriving DecidableEq, Repr

/-- Reasons for a fault. There is none: every command of the part leaves a next state, and what goes wrong
is told by a reply code, an event record or a flag (log entry 25). -/
inductive Fault where
  deriving DecidableEq, Repr

/-- Reasons for a refusal. -/
inductive Refusal where
  /-- Raised by `exec` alone, for a command of the table that has no meaning in the model yet. Safe: it
  stops where the part goes on. No arm of `exec` raises it now. -/
  | notModelled (mnemonic : String)
  deriving DecidableEq, Repr

/-- Default channel settings with MKSEL 000: low mark 1024, high mark 7168, prime level 1024 (R63, R86). -/
def Settings.reset : Settings := { lowMark := 1024, highMark := 7168 }

/-- A channel after power-on with MKSEL 000 (R39, R40, R63, R84, R101, R137). -/
def Channel.reset : Channel := { settings := Settings.reset }

/-- The part right after power-on (R190), its straps and trigger pins found low, its fault inputs
released, SEL# high and the die at 0 °C (log entry 1). -/
def State.reset : State where
  mem          := {}
  chans        := ⟨Channel.reset, Channel.reset, Channel.reset, Channel.reset⟩
  cue          := {}
  prot         := ⟨{}, {}, {}, {}⟩
  temp         := {}
  link         := { reply := { kind := 0, code := .reset, payload := [1#32] } }
  events       := {}
  dev          := {}
  boundaryOpen := false
  resetHeld    := false
  freeIndex    := 0
  pending      := []

end Sys2Proof.Machine
end

