-- ==== Sys2Proof/Machine/Operands.lean ====
section
/-! DEFINITION. The layouts of chapter 10: fields of words, message kinds, step records, packed samples, cue sets, replies, event records, the frame check, and the bits of a cue frame. -/

namespace Sys2Proof.Machine

/-! ### Fields of a word -/

/-- Bits hi:lo of a word, as an unsigned number (chapter 10, opening). -/
def bitsOf (w : Word) (hi lo : Nat) : Nat := (w.extractLsb' lo (hi + 1 - lo)).toNat

/-- Bits hi:lo of a word, as a two's complement number of that width (chapter 10, opening). -/
def signedOf (w : Word) (hi lo : Nat) : Int := (w.extractLsb' lo (hi + 1 - lo)).toInt

/-- Bit `i` of a word. -/
def flagOf (w : Word) (i : Nat) : Bool := w.getLsbD i

/-- An unsigned field placed with its lowest bit at `lo`. -/
def put (lo v : Nat) : Word := BitVec.ofNat 32 v <<< lo

/-- A signed 16-bit field placed with its lowest bit at `lo`. -/
def putSigned (lo : Nat) (v : Int) : Word := put lo (BitVec.ofInt 16 v).toNat

/-- A one-bit field at `i`. -/
def putFlag (i : Nat) (b : Bool) : Word := put i b.toNat

/-- A signed 32-bit quantity as a word (event values, R179). -/
def signedWord (v : Int) : Word := BitVec.ofInt 32 v

/-- Payload word `i` of a message, counted from 0 (chapter 10, opening). -/
def msgWord (m : Msg) (i : Nat) : Word := m.payload.getD i 0

/-! ### Message kinds (R173) -/

/-- The message kinds. -/
inductive Kind where
  | nop | identify | devConfig | devStatus | devReset | eventRead
  | segDefine | segWrite | segSeal | segDelete | segQuery | memQuery
  | chConfig | chMask | chStatus | chRestore
  | listClear | listAppend | listReplace | listRead
  | chStart | chStop | streamData | streamFlush | cueSend | trigConfig
  deriving DecidableEq, Repr

/-- Kind codes (R173). -/
def Kind.code : Kind → BitVec 8
  | .nop => 0x00 | .identify => 0x01 | .devConfig => 0x02 | .devStatus => 0x03
  | .devReset => 0x04 | .eventRead => 0x05
  | .segDefine => 0x10 | .segWrite => 0x11 | .segSeal => 0x12 | .segDelete => 0x13
  | .segQuery => 0x14 | .memQuery => 0x15
  | .chConfig => 0x20 | .chMask => 0x21 | .chStatus => 0x22 | .chRestore => 0x23
  | .listClear => 0x30 | .listAppend => 0x31 | .listReplace => 0x32 | .listRead => 0x33
  | .chStart => 0x40 | .chStop => 0x41 | .streamData => 0x50 | .streamFlush => 0x51
  | .cueSend => 0x60 | .trigConfig => 0x61

/-- Every kind of the table (R173). -/
def Kind.table : List Kind :=
  [.nop, .identify, .devConfig, .devStatus, .devReset, .eventRead,
   .segDefine, .segWrite, .segSeal, .segDelete, .segQuery, .memQuery,
   .chConfig, .chMask, .chStatus, .chRestore,
   .listClear, .listAppend, .listReplace, .listRead,
   .chStart, .chStop, .streamData, .streamFlush, .cueSend, .trigConfig]

/-- The kind a KIND value names, if the table has it (R173). -/
def Kind.ofCode (c : BitVec 8) : Option Kind := Kind.table.find? (fun k => k.code == c)

/-- The channel-specific kinds (R162). -/
def Kind.channelSpecific : Kind → Bool
  | .chConfig | .chMask | .chStatus | .chRestore | .listClear | .listAppend | .listReplace
  | .listRead | .streamData | .streamFlush => true
  | _ => false

/-- The kinds refused LOCKED while the die is in LOCK (R152). -/
def Kind.lockable : Kind → Bool
  | .devConfig | .chConfig | .trigConfig | .listClear | .listAppend | .listReplace | .chStart
  | .chRestore => true
  | _ => false

/-- The channel a CHANNEL field 0..3 names (R171). -/
def chOf (c : BitVec 3) : Ch :=
  if c = 1#3 then .ch1 else if c = 2#3 then .ch2 else if c = 3#3 then .ch3 else .ch0

/-- CHANNEL 4..6 for any kind, 7 for a channel-specific kind (R162 order 4). -/
def badChannel (k : Kind) (c : BitVec 3) : Bool :=
  c = 4#3 || c = 5#3 || c = 6#3 || (c = 7#3 && k.channelSpecific)

/-- The number of a channel. -/
def chNum : Ch → Nat
  | .ch0 => 0 | .ch1 => 1 | .ch2 => 2 | .ch3 => 3

/-- All four channels, in number order. -/
def allCh : List Ch := [.ch0, .ch1, .ch2, .ch3]

/-- The channels a 4-bit mask names: bit n names channel n (R175). -/
def maskChannels (w : Word) : List Ch := allCh.filter (fun n => flagOf w (chNum n))

/-- The order in which the four channels are taken at a boundary: each once, first the ones named, in the
order they are named, then the others (log entry 6). -/
def channelOrder (turns : List Ch) : List Ch :=
  let named := turns.dedup
  named ++ allCh.filter (fun n => n ∉ named)

/-! ### Packed samples (R174) -/

/-- The two samples of a word, upper half first. -/
def wordSamples (w : Word) : List Sample := [w.extractLsb' 16 16, w.extractLsb' 0 16]

/-- The samples of the sample words, less the last half when HALF is 1: `2w − HALF` of them. -/
def samplesOf (half : Bool) (ws : List Word) : List Sample :=
  let all := ws.flatMap wordSamples
  if half then all.dropLast else all

/-! ### Step records (R177, and the ranges of R21 to R25) -/

/-- An optional field with its presence bit. -/
def presentIf {α : Type} (p : Bool) (a : α) : Option α := if p then some a else none

/-- The step record seven words spell, in range or not (R177). -/
def readRecord (ws : List Word) : StepRecord :=
  let w (i : Nat) : Word := ws.getD i 0
  { source  := if flagOf (w 0) 31 then .stream else .memory (bitsOf (w 0) 23 16)
    repeats := bitsOf (w 0) 15 0
    length  := presentIf (flagOf (w 0) 30) (bitsOf (w 1) 23 0)
    rate    := bitsOf (w 2) 18 0
    gain    := signedOf (w 3) 31 16
    offset  := signedOf (w 3) 15 0
    wait    := presentIf (flagOf (w 4) 31) (bitsOf (w 4) 29 24)
    leave   := presentIf (flagOf (w 4) 23) (bitsOf (w 4) 21 16)
    emit    := presentIf (flagOf (w 4) 15) (bitsOf (w 4) 13 8)
    marker  := presentIf (flagOf (w 5) 31) ⟨flagOf (w 5) 16, flagOf (w 5) 17, bitsOf (w 5) 15 0⟩
    jump    := presentIf (flagOf (w 6) 31) ⟨bitsOf (w 6) 23 16, bitsOf (w 6) 15 0⟩ }

/-- An optional cue field: 1..63 when present (R23). -/
def cueFieldOk : Option Nat → Bool
  | none => true
  | some c => 1 ≤ c && c ≤ 63

/-- An optional marker: some output, width 1..65535 (R24). -/
def markerOk : Option Marker → Bool
  | none => true
  | some k => (k.a || k.b) && 1 ≤ k.width && k.width ≤ 65535

/-- An optional jump: target 0..63, count 0..65535 (R25). -/
def jumpOk : Option Jump → Bool
  | none => true
  | some j => j.target ≤ 63 && j.count ≤ 65535

/-- What the source asks of the other fields (R22). -/
def sourceOk (r : StepRecord) : Bool :=
  match r.source with
  | .memory seg => seg ≤ 255 && r.length.isNone && r.repeats ≤ 65535
  | .stream =>
    (match r.length with | some n => 1 ≤ n && n ≤ 16777215 | none => false)
      && r.repeats = 1 && r.rate = 65536 && r.leave.isNone

/-- The field-range class of R27: a record that passes may be stored (R21 to R25). -/
def StepRecord.inRange (r : StepRecord) : Bool :=
  sourceOk r && 1 ≤ r.rate && r.rate ≤ 262144
    && -32768 ≤ r.gain && r.gain ≤ 32767 && -32768 ≤ r.offset && r.offset ≤ 32767
    && cueFieldOk r.wait && cueFieldOk r.leave && cueFieldOk r.emit
    && !(r.wait.isSome && r.wait == r.leave)
    && markerOk r.marker && jumpOk r.jump

/-- An optional cue as a presence bit and a 6-bit field. -/
def cueFieldWord (pbit lo : Nat) : Option Nat → Word
  | none => 0
  | some c => putFlag pbit true ||| put lo c

/-- The seven words of a record the part returns; absent fields are 0 (R177). -/
def recordWords (r : StepRecord) : List Word :=
  [ (match r.source with | .stream => putFlag 31 true | .memory seg => put 16 seg)
      ||| putFlag 30 r.length.isSome ||| put 0 r.repeats,
    put 0 (r.length.getD 0),
    put 0 r.rate,
    putSigned 16 r.gain ||| putSigned 0 r.offset,
    cueFieldWord 31 24 r.wait ||| cueFieldWord 23 16 r.leave ||| cueFieldWord 15 8 r.emit,
    (match r.marker with
      | none => 0
      | some k => putFlag 31 true ||| putFlag 17 k.b ||| putFlag 16 k.a ||| put 0 k.width),
    (match r.jump with
      | none => 0
      | some j => putFlag 31 true ||| put 16 j.target ||| put 0 j.count) ]

/-! ### Cue sets (R132, R134, R178) -/

/-- The cue numbers 1..63: every bit but that of cue 0. -/
def allCues : CueSet := ~~~(1#64)

/-- Is cue `n` a member? -/
def cueIn (c : CueSet) (n : Nat) : Bool := c.getLsbD n

/-- The set with cue `n` added. -/
def cueAdd (c : CueSet) (n : Nat) : CueSet := c ||| (1#64 <<< n)

/-- The set with cue `n` removed. -/
def cueRemove (c : CueSet) (n : Nat) : CueSet := c &&& ~~~(1#64 <<< n)

/-- The set named by CH-MASK's two words, high word first, with cue 0 left out (R132, R178). -/
def cueSetOf (hi lo : Word) : CueSet := (hi ++ lo : BitVec 64) &&& allCues

/-- The two words of a cue set, high word first (R178). -/
def cueSetWords (c : CueSet) : List Word := [c.extractLsb' 32 32, c.extractLsb' 0 32]

/-! ### The frame check (R160) -/

/-- One step of the CRC: feedback, shift, exclusive-or (R160). -/
def crcBit (reg : BitVec 16) (b : Bool) : BitVec 16 :=
  if (reg.msb ^^ b) then (reg <<< 1) ^^^ 0x1021#16 else reg <<< 1

/-- The bits of a word, most significant first (R156). -/
def wordBits (w : Word) : List Bool := (List.range 32).map (fun i => w.getMsbD i)

/-- The CRC over words, first word first, each most significant bit first (R160). -/
def crc (ws : List Word) : BitVec 16 :=
  ws.foldl (fun reg w => (wordBits w).foldl crcBit reg) 0xFFFF#16

/-- The check word over the words before it: upper half zero, lower half the CRC (R160). -/
def checkWord (ws : List Word) : Word := (crc ws).setWidth 32

/-- The header word of a message, reserved bits 0 (R171). -/
def headerWord (k : BitVec 8) (m : Msg) : Word :=
  put 24 k.toNat ||| put 21 m.channel.toNat ||| putFlag 20 m.half ||| put 0 m.payload.length

/-- The words of the frame that carries message `m` under kind code `k` (R159). -/
def frameWords (k : BitVec 8) (m : Msg) : List Word :=
  let body := headerWord k m :: m.payload
  body ++ [checkWord body]

/-- The window that carries a frame and nothing else. -/
def frameWindow (k : BitVec 8) (m : Msg) : Window := { words := frameWords k m }

/-- SCK edges of a window (R156). -/
def windowEdges (w : Window) : Nat := 32 * w.words.length + w.tail.length

/-! ### Replies (R172) and event records (R179) as words -/

/-- Reply code numbers (R172). -/
def ReplyCode.num : ReplyCode → Nat
  | .ok => 0 | .reset => 1 | .badFrame => 2 | .badCheck => 3 | .unknown => 4 | .badChan => 5
  | .badVal => 6 | .busy => 7 | .noSpace => 8 | .notFound => 9 | .exists => 10 | .inUse => 11
  | .notReady => 12 | .sealed => 13 | .full => 14 | .locked => 15 | .shut => 16

/-- The reply header (R172). -/
def replyHeader (r : Reply) : Word :=
  put 24 r.kind.toNat ||| put 16 r.code.num
    ||| putFlag 15 r.summary.ev ||| putFlag 14 r.summary.evLost ||| putFlag 13 r.summary.tWarn
    ||| putFlag 12 r.summary.tLock ||| putFlag 11 r.summary.der ||| putFlag 10 r.summary.shut
    ||| put 0 r.payload.length

/-- The words of a reply: header, payload, check word (R163). -/
def replyWords (r : Reply) : List Word :=
  let body := replyHeader r :: r.payload
  body ++ [checkWord body]

/-- The bits SDO carried in a window: as many of the reply's bits as the window had edges, then zero bits
(R163, R165). -/
def CarriedOut.sdoBits (c : CarriedOut) : List Bool :=
  let all := (replyWords c.reply).flatMap wordBits
  all.take c.bits ++ List.replicate (c.bits - all.length) false

/-- Event codes (R179). -/
def EventKind.code : EventKind → Nat
  | .seqDone => 1 | .startLate => 2 | .streamLow => 3 | .streamHigh => 4 | .streamUnderrun => 5
  | .cueLost => 6 | .cueDropped => 7 | .cueError => 8 | .stopCue => 9 | .clip => 10 | .limit => 11
  | .overload => 12 | .shutdown => 13 | .tempWarn => 14 | .tempLock => 15 | .tempClear => 16
  | .segCleared => 17

/-- The three words of an event record (R179). That the CHANNEL field is 0 in a record without a channel and the
STEP field in one without a step is the model's choice (log entry 32). -/
def eventWords (e : Event) : List Word :=
  [ put 24 e.kind.code ||| putFlag 23 e.channel.isSome ||| putFlag 22 e.step.isSome
      ||| putFlag 21 e.value.isSome
      ||| put 16 (match e.channel with | some n => chNum n | none => 0)
      ||| put 8 (e.step.getD 0),
    e.value.getD 0,
    e.stamp ]

/-- The source field of CUE_LOST and CUE_DROPPED (R179). -/
def CueSource.num : CueSource → Nat
  | .cueSend => 0
  | .stepEmit _ _ => 1
  | .trigger .trig0 => 2
  | .trigger .trig1 => 3

/-- The value of CUE_LOST and CUE_DROPPED: cue in bits 5:0, source in bits 9:8 (R179), the other bits 0
(log entry 32). -/
def cueSourceValue (cue : Nat) (src : CueSource) : Word := put 8 src.num ||| put 0 cue

/-- The channel of an event about a queued cue: that of a step emit, else absent (R111, R119). -/
def CueSource.channel : CueSource → Option Ch
  | .stepEmit n _ => some n
  | _ => none

/-- The step of an event about a queued cue (R111, R119). -/
def CueSource.step : CueSource → Option Nat
  | .stepEmit _ k => some k
  | _ => none

/-- Reasons of CUE_ERROR (R179). -/
inductive CueErrorReason where
  | parity | framing | stuck
  | overrun (cue : Nat)
  deriving DecidableEq, Repr

/-- The value of CUE_ERROR (R179), the bits R179 does not name 0 (log entry 32). -/
def CueErrorReason.value : CueErrorReason → Word
  | .parity => 1#32
  | .framing => 2#32
  | .stuck => 3#32
  | .overrun cue => put 8 cue ||| 4#32

/-! ### Enumerated settings (R175, R178) -/

/-- HALFP (R175). -/
def halfPeriodOf (v : Nat) : HalfPeriod :=
  if v = 0 then .half else if v = 1 then .one else if v = 2 then .two else .four

/-- ATTN (R175). -/
def attnModeOf (b : Bool) : AttnMode := if b then .pulse else .level

/-- END (R178): 2 and 3 are out of range. -/
def endActionOf (v : Nat) : Option EndAction :=
  if v = 0 then some .park else if v = 1 then some .hold else none

/-- PIN (R175): 2 and 3 are out of range. -/
def trigPinOf (v : Nat) : Option TrigPin :=
  if v = 0 then some .trig0 else if v = 1 then some .trig1 else none

/-- The default low and high marks of a strap value MKSEL (R86). -/
def strapMarks (v : BitVec 3) : Nat × Nat :=
  match v.toNat with
  | 0 => (1024, 7168)
  | 1 => (512, 7680)
  | 2 => (256, 7936)
  | 3 => (128, 8064)
  | 4 => (64, 8128)
  | 5 => (2048, 6144)
  | 6 => (1536, 6656)
  | _ => (3072, 5120)

/-- The code of a playback state in CH-STATUS (R178). -/
def Playback.num : Playback → Nat
  | .idle => 0 | .armed => 1 | .running => 2 | .done => 3

/-- The code of a step phase in CH-STATUS (R178). -/
def Phase.num : Phase → Nat
  | .waiting => 1 | .priming => 2 | .playing => 3

/-- The code of a protection state in CH-STATUS (R178). -/
def ProtState.num : ProtState → Nat
  | .normal => 0 | .derated => 1 | .shut => 2

/-- The code of a derate cause in CH-STATUS (R178). -/
def DerateCause.num : DerateCause → Nat
  | .none => 0 | .fault => 1 | .temp => 2

/-- The code of a temperature state in DEV-STATUS (R178). -/
def TempState.num : TempState → Nat
  | .cool => 0 | .warm => 1 | .lock => 2

/-- The code of a segment state in SEG-QUERY (R176). -/
def SegState.num : SegState → Nat
  | .clearing => 0 | .opened => 1 | .sealed => 2

/-! ### Cue frames (R104) -/

/-- The number of ones among bits. -/
def onesOf (bits : List Bool) : Nat := bits.count true

/-- The six bits of a cue number, most significant first (R104). -/
def cueBits (cue : Nat) : List Bool :=
  [cue.testBit 5, cue.testBit 4, cue.testBit 3, cue.testBit 2, cue.testBit 1, cue.testBit 0]

/-- The seven bits a frame of a cue carries: the six bits and the parity bit (R104). -/
def frameBits (cue : Nat) : List Bool := cueBits cue ++ [onesOf (cueBits cue) % 2 == 1]

/-- The number formed by bits, the first the most significant (R113). -/
def cueOfBits (bits : List Bool) : Nat := bits.foldl (fun n b => 2 * n + b.toNat) 0

end Sys2Proof.Machine
end

