-- ==== Sys2Proof/Machine/Flags.lean ====
section
/-! DEFINITION. The arithmetic of the sample path with its two flags (chapter 4), the summary bits of a reply (R164), and the judgement of a cue frame's parity (R113). -/

namespace Sys2Proof.Machine

/-- clamp(x, lo, hi) as the conventions give it. -/
def clamp (x lo hi : Int) : Int := if x < lo then lo else if hi < x then hi else x

/-- Stage 1: the value between samples `a` and `b` at fraction `f` (R67). -/
def interpolate (a b : Int) (f : Nat) : Int := a + ((b - a) * f + 32768) / 65536

/-- Stage 2: gain, Q2.14, rounded half-up (R68). -/
def applyGain (v g : Int) : Int := (v * g + 8192) / 16384

/-- Stage 4: saturation to 16 bits (R70). -/
def saturate (u : Int) : Int := clamp u (-32768) 32767

/-- Stage 5: division by 4 toward zero when DERATED (R71). -/
def derate (p : ProtState) (us : Int) : Int := if p = .derated then us.tdiv 4 else us

/-- Stage 7: the offset-binary DAC code (R73). -/
def dacCode (c : Int) : Int := c + 32768

/-- What stages 2 to 6 make of one value: u, d and c of R69 to R72. -/
structure Formed where
  u : Int
  d : Int
  c : Int
  deriving DecidableEq, Repr

/-- Stages 2 to 6 (R68 to R72). -/
def formSample (v gain offset : Int) (p : ProtState) (lmin lmax : Int) : Formed :=
  let u := applyGain v gain + offset
  let d := derate p (saturate u)
  ⟨u, d, clamp d lmin lmax⟩

/-- Stage 4 changed the value: the clip flag is set (R70). -/
def clips (x : Formed) : Bool := saturate x.u != x.u

/-- Stage 6 changed the value: the limit flag is set (R72). -/
def limits (x : Formed) : Bool := x.c != x.d

/-- Some channel satisfies `p`. -/
def anyCh {α : Type} (q : Quad α) (p : α → Bool) : Bool := p q.c0 || p q.c1 || p q.c2 || p q.c3

/-- The six summary bits (R154, R164). -/
def summaryOf (s : State) : Summary :=
  { ev     := !s.events.records.isEmpty
    evLost := s.events.lost
    tWarn  := s.temp.state != .cool
    tLock  := s.temp.state == .lock
    der    := anyCh s.prot (fun p => p.state == .derated)
    shut   := anyCh s.prot (fun p => p.state == .shut) }

/-- What the receiver finds at the end of a frame (R113, R114). -/
inductive FrameVerdict where
  | valid (cue : Nat)
  | malformed (why : CueErrorReason)
  deriving DecidableEq, Repr

/-- The judgement of the bits between a start condition and the frame's end: eight bits or more end at the
eighth, fewer at a stop condition (R113, R114). -/
def judgeFrame (bits : List Bool) : FrameVerdict :=
  if bits.length = 7 then
    if onesOf bits % 2 = 0 then .valid (cueOfBits (bits.take 6)) else .malformed .parity
  else .malformed .framing

end Sys2Proof.Machine
end

