-- ==== Sys2Proof/Machine/Ops.lean ====
section
/-! DEFINITION. The named operations over the blocks' state: block updates, the store, the segment table, the free-region list, events and ATTN#, the send queue, playback changes, the replies. -/

namespace Sys2Proof.Machine

/-! ### Block updates -/

/-- Channel `n`. -/
def State.ch (s : State) (n : Ch) : Channel := s.chans.get n
/-- Protection record of channel `n`. -/
def State.pr (s : State) (n : Ch) : Protection := s.prot.get n

/-- Channel `n` replaced. -/
def State.setCh (s : State) (n : Ch) (c : Channel) : State := { s with chans := s.chans.set n c }
/-- Protection record of channel `n` replaced. -/
def State.setPr (s : State) (n : Ch) (p : Protection) : State := { s with prot := s.prot.set n p }
/-- Segment memory replaced. -/
def State.setMem (s : State) (m : SegMem) : State := { s with mem := m }
/-- Cue Controller replaced. -/
def State.setCue (s : State) (c : CueController) : State := { s with cue := c }
/-- Die temperature replaced. -/
def State.setTemp (s : State) (t : DieTemp) : State := { s with temp := t }
/-- Link Interface replaced. -/
def State.setLink (s : State) (l : Link) : State := { s with link := l }
/-- Event Queue replaced. -/
def State.setEvents (s : State) (e : EventQueue) : State := { s with events := e }
/-- Device Control replaced. -/
def State.setDev (s : State) (d : Device) : State := { s with dev := d }
/-- The open-boundary mark replaced (log entry 5). -/
def State.setOpen (s : State) (b : Bool) : State := { s with boundaryOpen := b }
/-- One more free value drawn (log entry 29). -/
def State.drawFree (s : State) : State := { s with freeIndex := s.freeIndex + 1 }

/-- What a moment of a boundary does while RESET# is high; while it is held low the part does nothing (R190;
log entry 19). -/
def live (f : State → State) (s : State) : State := if s.resetHeld then s else f s

/-- One operation on each channel of a list, in its order. -/
def eachCh (l : List Ch) (f : Ch → State → State) (s : State) : State := l.foldl (fun t n => f n t) s

/-! ### The store (R1) -/

/-- The store is in its canonical form: addresses strictly rising and no word equal to 0. -/
def Memory.wf : Memory → Bool
  | [] => true
  | c :: rest => c.2 != 0 && rest.all (fun d => c.1 < d.1) && Memory.wf rest

/-- The sample at word `a`; an unlisted word reads 0 (R1; log entry 9). -/
def Memory.read : Memory → Nat → Sample
  | [], _ => 0
  | c :: rest, a => if c.1 = a then c.2 else Memory.read rest a

/-- Word `a` set to `v`. -/
def Memory.write : Memory → Nat → Sample → Memory
  | [], a, v => if v = 0 then [] else [(a, v)]
  | c :: rest, a, v =>
    if a < c.1 then (if v = 0 then c :: rest else (a, v) :: c :: rest)
    else if a = c.1 then (if v = 0 then rest else (a, v) :: rest)
    else c :: Memory.write rest a v

/-- Consecutive words from `a` set to `vs` (R9). -/
def Memory.writeAll : Memory → Nat → List Sample → Memory
  | m, _, [] => m
  | m, a, v :: vs => Memory.writeAll (Memory.write m a v) (a + 1) vs

/-- Words base..base + len − 1 set to 0 (R7). -/
def Memory.zero (m : Memory) (base len : Nat) : Memory :=
  m.filter (fun c => c.1 < base || base + len ≤ c.1)

/-! ### Segment records (R2) and the free-region list (R3 to R5) -/

/-- The record of an id, if it is defined. -/
def findSeg (segs : List Segment) (id : Nat) : Option Segment := segs.find? (fun g => g.id == id)

/-- A record put into the table in id order. -/
def insertSeg (g : Segment) : List Segment → List Segment
  | [] => [g]
  | h :: rest => if g.id < h.id then g :: h :: rest else h :: insertSeg g rest

/-- The record of an id changed. -/
def updateSeg (segs : List Segment) (id : Nat) (f : Segment → Segment) : List Segment :=
  segs.map (fun g => if g.id = id then f g else g)

/-- The record of an id removed. -/
def removeSeg (segs : List Segment) (id : Nat) : List Segment := segs.filter (fun g => g.id != id)

/-- The play length for a requested length (R2). -/
def playLength (l : Nat) : Nat := max l 16

/-- The allocation for a requested length: the play length rounded up to a multiple of 16 (R2). -/
def allocation (l : Nat) : Nat := (playLength l + 15) / 16 * 16

/-- First fit in ascending address order: the base found and the list it leaves (R4). -/
def allocate : List Region → Nat → Option (Nat × List Region)
  | [], _ => none
  | r :: rest, a =>
    if a ≤ r.len then
      some (r.base, if r.len = a then rest else ⟨r.base + a, r.len - a⟩ :: rest)
    else
      match allocate rest a with
      | none => none
      | some (b, rest') => some (b, r :: rest')

/-- An allocation returned and merged with the neighbours it touches (R5). -/
def release (base len : Nat) : List Region → List Region
  | [] => [⟨base, len⟩]
  | r :: rest =>
    if base + len < r.base then ⟨base, len⟩ :: r :: rest
    else if base + len = r.base then ⟨base, len + r.len⟩ :: rest
    else if r.base + r.len = base then
      match rest with
      | [] => [⟨r.base, r.len + len⟩]
      | q :: rest' =>
        if base + len = q.base then ⟨r.base, r.len + len + q.len⟩ :: rest'
        else ⟨r.base, r.len + len⟩ :: q :: rest'
    else r :: release base len rest

/-- The free count: the sum of the region lengths (R3). -/
def freeCount (regions : List Region) : Nat := (regions.map Region.len).sum

/-- The reference count of an id raised by 1 (R13). -/
def raiseRef (m : SegMem) (id : Nat) : SegMem :=
  { m with segs := updateSeg m.segs id (fun g => { g with refs := g.refs + 1 }) }

/-- The reference count of an id lowered by 1 (R13). -/
def lowerRef (m : SegMem) (id : Nat) : SegMem :=
  { m with segs := updateSeg m.segs id (fun g => { g with refs := g.refs - 1 }) }

/-- A record stored in a list: a MEMORY step raises its segment's count (R13). -/
def refIn (m : SegMem) (r : StepRecord) : SegMem :=
  match r.source with
  | .memory id => raiseRef m id
  | .stream => m

/-- A record taken out of a list: a MEMORY step lowers its segment's count (R13). -/
def refOut (m : SegMem) (r : StepRecord) : SegMem :=
  match r.source with
  | .memory id => lowerRef m id
  | .stream => m

/-! ### Events and ATTN# (R168, R169, R180, R181) -/

/-- The stamp of a record entered now: the low 32 bits of the sample counter (R180, R184). -/
def stampOf (c : Counter) : Word := c.setWidth 32

/-- A record offered to the queue: entered, with ATTN# asserted, or discarded with the lost indicator set
when 32 records are held (R168, R169, R181). -/
def offerEvent (e : Event) (mode : AttnMode) (q : EventQueue) : EventQueue :=
  if Config.eventRecords ≤ q.records.length then { q with lost := true }
  else
    { q with
      records := q.records ++ [e]
      attn    := true
      pulse   := if mode = .pulse then true else q.pulse }

/-- An event offered to the queue, stamped with the counter (R180). -/
def enterEvent (kind : EventKind) (channel : Option Ch) (step : Option Nat) (value : Option Word)
    (s : State) : State :=
  s.setEvents (offerEvent ⟨kind, channel, step, value, stampOf s.dev.counter⟩ s.dev.attnMode s.events)

/-- CUE_ERROR with its reason (R114). -/
def cueError (why : CueErrorReason) (s : State) : State :=
  enterEvent .cueError none none (some why.value) s

/-! ### The cue send queue (R111, R117, R118, R119) -/

/-- What became of a push. -/
inductive Push where
  | added | merged | full
  deriving DecidableEq, Repr

/-- The queue holds a cue 0 entry (R118). -/
def holdsCue0 (q : List SendEntry) : Bool := q.any (fun e => e.cue == 0)

/-- A new entry put in its place: cue 0 at the head, or second behind an entry in flight; any other cue at
the tail (R117, R118). -/
def placeEntry (e : SendEntry) (inFlight : Bool) (q : List SendEntry) : List SendEntry :=
  if e.cue = 0 then
    match q, inFlight with
    | h :: rest, true => h :: e :: rest
    | _, _ => e :: q
  else q ++ [e]

/-- What a push would do (R118, R119, R120). -/
def pushVerdict (cue : Nat) (q : List SendEntry) : Push :=
  if cue = 0 && holdsCue0 q then .merged
  else if Config.sendQueueEntries ≤ q.length then .full
  else .added

/-- A cue pushed from a source (R117, R118). -/
def pushCue (cue : Nat) (src : CueSource) (s : State) : State :=
  match pushVerdict cue s.cue.sendQ with
  | .added =>
    s.setCue { s.cue with
      sendQ := placeEntry ⟨cue, src, 0⟩ s.cue.inFlight.isSome s.cue.sendQ }
  | _ => s

/-- A push that gets no reply: dropped with CUE_DROPPED when the queue is full (R119). -/
def pushOrDrop (cue : Nat) (src : CueSource) (s : State) : State :=
  match pushVerdict cue s.cue.sendQ with
  | .full => enterEvent .cueDropped src.channel src.step (some (cueSourceValue cue src)) s
  | _ => pushCue cue src s

/-- The queue after its head lost an attempt and stayed: a cue 0 entry directly behind it moves ahead (R118). -/
def yieldToCue0 : List SendEntry → List SendEntry
  | h :: e :: rest => if e.cue = 0 then e :: h :: rest else h :: e :: rest
  | q => q

/-- The frame in flight counts one lost attempt against the head entry: the entry stays, or on its fourth
lost attempt it is removed and CUE_LOST is entered (R109, R111, R118). -/
def loseAttempt (s : State) : State :=
  match s.cue.sendQ with
  | [] => s.setCue { s.cue with inFlight := none }
  | h :: rest =>
    if Config.maxAttempts ≤ h.attempts + 1 then
      enterEvent .cueLost h.source.channel h.source.step (some (cueSourceValue h.cue h.source))
        (s.setCue { s.cue with inFlight := none, sendQ := rest })
    else
      s.setCue { s.cue with
        inFlight := none
        sendQ := yieldToCue0 ({ h with attempts := h.attempts + 1 } :: rest) }

/-! ### Playback changes (R43, R60, R61, R75) -/

/-- A channel ARMED or RUNNING. -/
def Channel.active (c : Channel) : Bool := c.playback == .armed || c.playback == .running

/-- The step record a channel is at. -/
def Channel.record (c : Channel) : Option StepRecord := (c.list[c.run.step]?).map Slot.record

/-- The step index when the channel is RUNNING (R142, R145). -/
def Channel.runningStep (c : Channel) : Option Nat :=
  if c.playback = .running then some c.run.step else none

/-- The channel becomes IDLE: pending set emptied, start condition none, hold code the park code; the
run record, list, counters and buffer are kept (R40, R60, R61, R75). -/
def Channel.toIdle (c : Channel) : Channel :=
  { c with
    playback := .idle
    run := { c.run with start := .none, startAt := none, next := none, owed := .nothing }
    pendingCues := 0
    hold := c.settings.park }

/-- STREAM-FLUSH of a buffer (R95). -/
def Channel.flush (c : Channel) : Channel := { c with stream := {} }

/-- Every slot's loops-remaining counter set to its jump count (R26). -/
def reloadLoops (l : List Slot) : List Slot :=
  l.map (fun t => { t with loops := match t.record.jump with | some j => j.count | none => 0 })

/-- An accepted CH-START on one channel: pending set emptied, counters reloaded, run record reset, ARMED
with its start condition and start boundary (R40, R43, R44). -/
def Channel.arm (c : Channel) (start : StartCond) (startAt : Option Counter) : Channel :=
  { c with
    playback := .armed
    list := reloadLoops c.list
    run := { phase := c.run.phase, start := start, startAt := startAt }
    pendingCues := 0 }

/-- The channel after one of the resets of R39 that keep the settings and the mask (R40, R78, R84, R101,
R137). Codes on their way to the pins go on (R82). -/
def Channel.restart (c : Channel) : Channel :=
  { settings := c.settings, mask := c.mask, hold := c.settings.park, out := c.out }

/-! ### Replies (R162, R163, R164, R166) -/

/-- What a block answers to a message: the state it leaves, the reply code and the reply payload. -/
structure Answer where
  state   : State
  code    : ReplyCode
  payload : List Word := []

/-- A refusal: no effect, no payload (R162). -/
def refuse (s : State) (code : ReplyCode) : Answer := ⟨s, code, []⟩

/-- An accepted message. -/
def accept (s : State) (payload : List Word := []) : Answer := ⟨s, .ok, payload⟩

/-- The echoed kind: 0 for BADFRAME, BADCHECK and RESET (R163, R166). -/
def echoKind (kind : BitVec 8) : ReplyCode → BitVec 8
  | .badFrame => 0
  | .badCheck => 0
  | .reset => 0
  | _ => kind

/-- The answer made the pending reply, with the summary bits as they stand after the effect (R161, R164). -/
def pendReply (kind : BitVec 8) (a : Answer) : State :=
  a.state.setLink { a.state.link with
    reply := ⟨echoKind kind a.code, a.code, summaryOf a.state, a.payload⟩ }

/-- A window clocked in: its words and bit count are held, and the pending reply has been carried out by
as many bits as it had edges (R156, R158, R165). -/
def receiveWindow (w : Window) (s : State) : State :=
  s.setLink { s.link with
    rxBuffer   := w.words.take Config.maxWindowWords
    bitCount   := min (windowEdges w) 8257
    carriedOut := if windowEdges w = 0 then none else some ⟨s.link.reply, windowEdges w⟩ }

/-- A frame whose kind is known: channel, lock, then the owning block (R161, R162). -/
def answerMessage (k : Kind) (m : Msg) (body : State → Answer) (s : State) : State :=
  pendReply k.code
    (if badChannel k m.channel then refuse s .badChan
     else if k.lockable && s.temp.state == .lock then refuse s .locked
     else body s)

/-- A window that carries message `m` of kind `k` and passes the frame and check tests, taken when SEL#
rises (R161). More than 256 payload words make no frame (R159). The rest of an assertion of SEL# that a
pin reset found is no window (R157; log entry 20). -/
def takeMessage (k : Kind) (m : Msg) (body : State → Answer) (s : State) : State :=
  if s.link.awaitRise then s.setLink { s.link with awaitRise := false }
  else if Config.maxPayload < m.payload.length then
    pendReply 0 (refuse (receiveWindow (frameWindow k.code m) s) .badFrame)
  else answerMessage k m body (receiveWindow (frameWindow k.code m) s)

end Sys2Proof.Machine
end

