-- ==== Sys2Proof/Machine/Boundary.lean ====
section
/-! DEFINITION. The sample boundary: clock, step entry, cues at their effective sample, priming, codes, advance, step end (chapters 3, 4, 5, 7; R183, R184). -/

namespace Sys2Proof.Machine

/-! ### The sample clock (R183, R184) -/

/-- The next boundary is the CLKIN edge at which a pending divider takes effect: the edge with
reference-edge count 0 comes no later than the end of the old period, or is the first edge of all (R183). -/
def switchDue (d : Device) : Bool :=
  d.pendingDivider.isSome &&
    match d.refEdge with
    | none => true
    | some c => 256 ≤ c + d.divider && !d.zeroPassed

/-- The reference-edge count of the edge of the next boundary (R183). -/
def nextEdge (d : Device) : Nat :=
  if switchDue d then 0
  else
    match d.refEdge with
    | none => 0
    | some c => (c + d.divider) % 256

/-- Device Control at the next boundary: the counter advances, and a pending divider takes effect if this
edge has reference-edge count 0 (R183, R184). -/
def advanceClock (d : Device) : Device :=
  { d with
    counter := d.counter + 1
    refEdge := some (nextEdge d)
    zeroPassed := false
    divider := if switchDue d then d.pendingDivider.getD d.divider else d.divider
    pendingDivider := if switchDue d then none else d.pendingDivider }

/-! ### Step end (R53, R55 to R57) -/

/-- The next index of an ended step and its slot's counter afterwards (R56). -/
def jumpOutcome (idx : Nat) (t : Slot) : Nat × Nat :=
  match t.record.jump with
  | none => (idx + 1, t.loops)
  | some j =>
    if j.count = 0 then (j.target, t.loops)
    else if 0 < t.loops then (j.target, t.loops - 1)
    else (idx + 1, j.count)

/-- List end: DONE, hold code the park code under end action PARK (R57, R75). -/
def Channel.toDone (c : Channel) : Channel :=
  { c with
    playback := .done
    run := { c.run with next := none, owed := .nothing }
    hold := if c.settings.endAction = .park then c.settings.park else c.hold }

/-- The current step of a channel has ended: the next index is resolved against the list's length now
(R56, R57). -/
def stepEnd (n : Ch) (s : State) : State :=
  let c := s.ch n
  match c.list[c.run.step]? with
  | none => s
  | some t =>
    let o := jumpOutcome c.run.step t
    let c' := { c with list := c.list.set c.run.step { t with loops := o.2 } }
    if o.1 < c.list.length then
      s.setCh n { c' with run := { c'.run with next := some o.1, owed := .nothing } }
    else
      enterEvent .seqDone (some n) (some c.run.step) none (s.setCh n c'.toDone)

/-- The segment a channel's current MEMORY step plays (R28, R49). -/
def currentSegment (n : Ch) (s : State) : Option Segment :=
  match (s.ch n).record with
  | none => none
  | some r =>
    match r.source with
    | .memory id => findSeg s.mem.segs id
    | .stream => none

/-- The position advanced by a rate (R52). -/
def advancePos (i f r : Nat) : Nat × Nat := (i + (f + r) / 65536, (f + r) % 65536)

/-- Repeats remaining after a repeat boundary (R53). -/
def repeatsAfter (repeats left : Nat) : Nat := if repeats = 0 then left else left - 1

/-- The step goes on after a repeat boundary (R53). -/
def continues (leave : Bool) (repeats left : Nat) : Bool :=
  !leave && (repeats = 0 || 0 < repeatsAfter repeats left)

/-- A repeat boundary resolved: the step plays on from (i − P, f), or ends keeping the position last
presented (R53). -/
def resolveRepeat (n : Ch) (s : State) : State :=
  let c := s.ch n
  match c.record, currentSegment n s with
  | some r, some g =>
    let p := advancePos c.run.i c.run.f r.rate
    let left := repeatsAfter r.repeats c.run.repeatsLeft
    if continues c.run.leave r.repeats c.run.repeatsLeft then
      s.setCh n { c with
        run := { c.run with i := p.1 - g.play, f := p.2, repeatsLeft := left, owed := .nothing } }
    else stepEnd n (s.setCh n { c with run := { c.run with repeatsLeft := left, owed := .nothing } })
  | _, _ => s

/-- The step end a RUNNING channel still owes; a channel that left RUNNING owes none (R62; log entry 7). -/
def Channel.owes (c : Channel) : Owed := if c.playback = .running then c.run.owed else .nothing

/-- A step end still owed is resolved (R41 stage 5; log entry 7). -/
def settle (n : Ch) (s : State) : State :=
  match (s.ch n).owes with
  | .nothing => s
  | .repeatBoundary => resolveRepeat n s
  | .streamEnd => stepEnd n s

/-! ### Step entry (R49) -/

/-- A step plays or primes after its entry or its wait (R49, R50). -/
def playPhase (r : StepRecord) : Phase :=
  match r.source with
  | .memory _ => .playing
  | .stream => .priming

/-- A cue field names a cue of the pending set. -/
def pendingHas (pending : CueSet) : Option Nat → Bool
  | none => false
  | some c => cueIn pending c

/-- The pending set less a cue field that was in it (R135). -/
def useCue (pending : CueSet) : Option Nat → CueSet
  | none => pending
  | some c => cueRemove pending c

/-- The channel after items 1 to 5 of step entry, the push apart (R49). -/
def enterChannel (idx : Nat) (r : StepRecord) (c : Channel) : Channel :=
  let leaves := pendingHas c.pendingCues r.leave
  let pending1 := useCue c.pendingCues r.leave
  let waits := r.wait.isSome && !pendingHas pending1 r.wait
  { c with
    playback := .running
    pendingCues := if waits then pending1 else useCue pending1 r.wait
    run :=
      { start := .none, startAt := none, step := idx,
        phase := if waits then .waiting else playPhase r,
        i := 0, f := 0, repeatsLeft := r.repeats, leave := leaves,
        markerLeft := (match r.marker with | some k => k.width | none => 0),
        consumed := 0, next := none, owed := .nothing } }

/-- Channel `n` enters step `idx`: the emit cue is pushed first, then the run record is set (R49, R119). -/
def enterStep (n : Ch) (idx : Nat) (s : State) : State :=
  match (s.ch n).list[idx]? with
  | none => s
  | some t =>
    let u :=
      match t.record.emit with
      | none => s
      | some cue => pushOrDrop cue (.stepEmit n idx) s
    u.setCh n (enterChannel idx t.record (u.ch n))

/-- The entry stage of a channel: its start boundary has come, or a step end has named a next index
(R41 stage 1). -/
def entryStage (n : Ch) (s : State) : State :=
  let c := s.ch n
  if c.playback = .armed && c.run.startAt == some s.dev.counter then enterStep n 0 s
  else
    match c.playback, c.run.next with
    | .running, some idx => enterStep n idx s
    | _, _ => s

/-- The next boundary is reached: step ends still owed are resolved, the clock advances, and every channel
does its entry stage. Nothing happens if the boundary is open already (R41; log entry 5). -/
def openBoundary (turns : List Ch) (s : State) : State :=
  if s.boundaryOpen then s
  else
    let s1 := eachCh (channelOrder turns) settle s
    let s2 := s1.setDev (advanceClock s1.dev)
    (eachCh (channelOrder turns) entryStage s2).setOpen true

/-! ### Cues at their effective sample (R129, R130) -/

/-- A WAITING channel's wait ends (R50). -/
def endWait (r : StepRecord) (c : Channel) : Channel := { c with run := { c.run with phase := playPhase r } }

/-- Channel `n` takes a cue by the first of the decisions of R130 that applies. -/
def takeCue (cue : Nat) (n : Ch) (s : State) : State :=
  let c := s.ch n
  if cue = 0 then
    if c.playback = .idle then s.setCh n { c with pendingCues := 0 }
    else enterEvent .stopCue (some n) none none (s.setCh n c.toIdle)
  else if c.playback = .armed && c.run.start == .cue cue then enterStep n 0 s
  else
    let r := if c.playback = .running then c.record else none
    match r with
    | none =>
      if cueIn c.mask cue then s.setCh n { c with pendingCues := cueAdd c.pendingCues cue } else s
    | some r =>
      if c.run.phase = .waiting && r.wait == some cue then s.setCh n (endWait r c)
      else if r.leave == some cue then s.setCh n { c with run := { c.run with leave := true } }
      else if cueIn c.mask cue then s.setCh n { c with pendingCues := cueAdd c.pendingCues cue }
      else s

/-- A cue offered to all four channels (R129). -/
def applyCue (turns : List Ch) (cue : Nat) (s : State) : State :=
  eachCh (channelOrder turns) (takeCue cue) s

/-- The first listed entry whose effective sample is the counter, and the others (R127, R129). -/
def takeDue (now : Counter) : List Delivery → Option (Nat × List Delivery)
  | [] => none
  | d :: rest =>
    if d.effect = now then some (d.cue, rest)
    else
      match takeDue now rest with
      | none => none
      | some (cue, rest') => some (cue, d :: rest')

/-- The first due entry removed and applied (R129). -/
def applyFirstDue (turns : List Ch) (s : State) : State :=
  match takeDue s.dev.counter s.cue.delivery with
  | none => s
  | some (cue, rest) => applyCue turns cue (s.setCue { s.cue with delivery := rest })

/-- The cue stage: at most `fuel` due entries applied, in list order (R41 stage 2, R129). -/
def applyDue (turns : List Ch) : Nat → State → State
  | 0, s => s
  | fuel + 1, s => applyDue turns fuel (applyFirstDue turns s)

/-- The cue stage over every entry of the delivery list (R129). -/
def cueStage (turns : List Ch) (s : State) : State := applyDue turns s.cue.delivery.length s

/-! ### Priming (R51) -/

/-- A stream step in PRIMING whose buffer holds min(length − consumed, prime level) samples (R51, R92). -/
def primed (c : Channel) : Bool :=
  c.playback == .running && c.run.phase == .priming &&
    match c.record with
    | some r => min (r.length.getD 0 - c.run.consumed) c.settings.prime ≤ c.stream.fifo.length
    | none => false

/-- The priming stage of a channel (R41 stage 3). -/
def primingStage (n : Ch) (s : State) : State :=
  let c := s.ch n
  if primed c then s.setCh n { c with run := { c.run with phase := .playing } } else s

/-! ### Codes (R66 to R77, R80, R81) -/

/-- What the pins are driven with for a presented code: the offset-binary DAC code and the marker levels
(R73, R81). -/
def drive (p : Presented) : Driven := ⟨BitVec.ofInt 16 (dacCode p.code), p.markers⟩

/-- A code and marker levels enter the way to the pins, and the pins are driven with the code of three
boundaries ago (R80, R81). -/
def shiftPins (p : Presented) (o : OutputPins) : OutputPins :=
  { o with d1 := p, d2 := o.d1, d3 := o.d2, pin := drive o.d3 }

/-- The channel presents a code with marker levels; the code becomes the hold code (R66, R75). -/
def presentOn (code : Int) (m : MarkerLevels) (c : Channel) : Channel :=
  { c with hold := code, markers := m, out := shiftPins ⟨code, m⟩ c.out }

/-- Channel `n` presents a code. -/
def present (n : Ch) (code : Int) (m : MarkerLevels) (s : State) : State :=
  s.setCh n (presentOn code m (s.ch n))

/-- The marker levels of a played sample (R59). -/
def playedMarkers (r : StepRecord) (c : Channel) : MarkerLevels :=
  match r.marker with
  | some k => if 0 < c.run.markerLeft then ⟨k.a, k.b⟩ else {}
  | none => {}

/-- The clip flag set, with CLIP if it was clear (R70). -/
def setClip (n : Ch) (x : Formed) (s : State) : State :=
  if clips x then
    let c := s.ch n
    let t := s.setCh n { c with clip := true }
    if c.clip then t else enterEvent .clip (some n) (some c.run.step) (some (signedWord x.u)) t
  else s

/-- The limit flag set, with LIMIT if it was clear (R72). -/
def setLimit (n : Ch) (x : Formed) (s : State) : State :=
  if limits x then
    let c := s.ch n
    let t := s.setCh n { c with limit := true }
    if c.limit then t else enterEvent .limit (some n) (some c.run.step) (some (signedWord x.d)) t
  else s

/-- What stages 2 to 6 make of a value on channel `n` (R66, R71, R72). -/
def formOn (n : Ch) (r : StepRecord) (v : Int) (s : State) : Formed :=
  formSample v r.gain r.offset (s.pr n).state (s.ch n).settings.lmin (s.ch n).settings.lmax

/-- A played sample formed from value `v` and presented, with its flags, events and marker levels
(R66 to R73, R77). -/
def playValue (n : Ch) (r : StepRecord) (v : Int) (s : State) : State :=
  let x := formOn n r v s
  let m := playedMarkers r (s.ch n)
  present n x.c m (setLimit n x (setClip n x s))

/-- The interpolated value of a MEMORY step at its position; no second word is read at P − 1 (R66, R67). -/
def memoryValue (g : Segment) (i f : Nat) (store : Memory) : Int :=
  let a := (Memory.read store (g.base + i)).toInt
  let b := if i + 1 < g.play then (Memory.read store (g.base + i + 1)).toInt else a
  interpolate a b f

/-- The head sample consumed, with STREAM_LOW when the level falls to the low mark (R90, R91). -/
def consume (n : Ch) (rest : List Sample) (s : State) : State :=
  let c := s.ch n
  let t := s.setCh n { c with stream := { c.stream with fifo := rest } }
  if c.settings.lowMark < c.stream.fifo.length && rest.length ≤ c.settings.lowMark then
    enterEvent .streamLow (some n) (some c.run.step) (some (BitVec.ofNat 32 rest.length)) t
  else t

/-! ### Advance (R41 stage 5, R52, R55, R59) -/

/-- The marker count after a played sample (R59). -/
def countMarker (c : Channel) : Channel :=
  { c with run := { c.run with markerLeft := c.run.markerLeft - 1 } }

/-- A step end found at this boundary: resolved now, or left owed for a deferred channel (log entry 7). -/
def endFound (n : Ch) (why : Owed) (deferred : List Ch) (s : State) : State :=
  let c := s.ch n
  let t := s.setCh n { c with run := { c.run with owed := why } }
  if n ∈ deferred then t else settle n t

/-- The position of a memory step advances, or a repeat boundary is reached (R52, R53). -/
def advanceMemory (n : Ch) (r : StepRecord) (g : Segment) (deferred : List Ch) (s : State) : State :=
  let c := countMarker (s.ch n)
  let p := advancePos c.run.i c.run.f r.rate
  if p.1 < g.play then s.setCh n { c with run := { c.run with i := p.1, f := p.2 } }
  else endFound n .repeatBoundary deferred (s.setCh n c)

/-- Stream samples consumed rises, and the step ends at its length (R55). -/
def advanceStream (n : Ch) (r : StepRecord) (deferred : List Ch) (s : State) : State :=
  let c := countMarker (s.ch n)
  let t := s.setCh n { c with run := { c.run with consumed := c.run.consumed + 1 } }
  if r.length.getD 0 ≤ c.run.consumed + 1 then endFound n .streamEnd deferred t else t

/-- An underrun: hold code, markers low, step end, the shortfall owed as debt, STREAM_UNDERRUN (R55, R93; log
entry 8). The end is resolved as any step end, so a message may come before it (R31, R62, R93; log entry 7). -/
def underrun (n : Ch) (r : StepRecord) (deferred : List Ch) (s : State) : State :=
  let c := s.ch n
  let short := r.length.getD 0 - c.run.consumed
  let t := endFound n .streamEnd deferred (present n c.hold {} s)
  let d := t.ch n
  enterEvent .streamUnderrun (some n) (some c.run.step) (some (BitVec.ofNat 32 short))
    (t.setCh n { d with stream := { d.stream with debt := min (d.stream.debt + short) Config.maxDebt } })

/-- A PLAYING step's code and advance (R52, R55, R66). -/
def playStep (n : Ch) (r : StepRecord) (deferred : List Ch) (s : State) : State :=
  let c := s.ch n
  match r.source with
  | .memory id =>
    match findSeg s.mem.segs id with
    | none => present n c.hold {} s
    | some g =>
      advanceMemory n r g deferred (playValue n r (memoryValue g c.run.i c.run.f s.mem.store) s)
  | .stream =>
    match c.stream.fifo with
    | [] => underrun n r deferred s
    | x :: rest => advanceStream n r deferred (playValue n r x.toInt (consume n rest s))

/-- The code and advance stages of a channel (R39, R41 stages 4 and 5). A channel's advance follows its own
code, before the next channel's code: R180 lets records of two channels stand in either order (log entry 6). -/
def codeStage (deferred : List Ch) (n : Ch) (s : State) : State :=
  let c := s.ch n
  match c.playback with
  | .idle => present n c.settings.park {} s
  | .armed => present n c.hold {} s
  | .done => present n (if c.settings.endAction = .park then c.settings.park else c.hold) {} s
  | .running =>
    match c.run.phase, c.record with
    | .playing, some r => playStep n r deferred s
    | _, _ => present n c.hold {} s

/-! ### The commands of a boundary -/

/-- A whole sample boundary, from wherever it stands: entry, cues, priming, codes and advance (R41). The two
operands are the sender's choices of what the manual leaves open (log entries 6 and 7). -/
def sampleBoundary (turns deferred : List Ch) (s : State) : State :=
  let order := channelOrder turns
  let s1 := cueStage turns (openBoundary turns s)
  let s2 := eachCh order primingStage s1
  (eachCh order (codeStage deferred) s2).setOpen false

def execSampleBoundary (turns deferred : List Ch) (s : State) : Host.Outcome State Fault Refusal :=
  .next (live (sampleBoundary turns deferred) s)

/-- A boundary that a moment's row has opened does the stages still to come (R41; log entry 5). -/
def finishBoundary (s : State) : State := if s.boundaryOpen then sampleBoundary [] [] s else s

/-- What every command that is no moment of a boundary does: nothing while RESET# is held low (R190), and
else it acts between two boundaries, so that the stages of one boundary stand together (R41; log entry 5). -/
def between (f : State → State) (s : State) : State :=
  if s.resetHeld then s else f (finishBoundary s)

/-- Channel `n` is ARMED with a start time, on time, that is the next boundary (R41, R46). -/
def startTimeDue (n : Ch) (s : State) : Bool :=
  let c := s.ch n
  !s.boundaryOpen && c.playback == .armed && c.run.startAt == some (s.dev.counter + 1)
    && c.run.start == .time (s.dev.counter + 1)

/-- The sample counter takes the value of channel `n`'s start time: the boundary opens and the channel
enters step 0 (R46). -/
def startTimeReached (n : Ch) (turns : List Ch) (s : State) : State :=
  if startTimeDue n s then openBoundary turns s else s

def execStartTimeReached (n : Ch) (turns : List Ch) (s : State) : Host.Outcome State Fault Refusal :=
  .next (live (startTimeReached n turns) s)

/-- The boundary a cue would act at now: the open one, or the next (log entry 5). -/
def actingBoundary (s : State) : Counter := if s.boundaryOpen then s.dev.counter else s.dev.counter + 1

/-- A cue's effective sample: the boundary opens, and the first due entry is removed and applied (R129). -/
def cueEffectiveSample (turns : List Ch) (s : State) : State :=
  if (takeDue (actingBoundary s) s.cue.delivery).isSome then applyFirstDue turns (openBoundary turns s)
  else s

def execCueEffectiveSample (turns : List Ch) (s : State) : Host.Outcome State Fault Refusal :=
  .next (live (cueEffectiveSample turns) s)

/-- The priming stage of channel `n` at the boundary, after its entry and cue stages, if the requirement
is met there (R51). -/
def primingMet (n : Ch) (turns : List Ch) (s : State) : State :=
  let t := cueStage turns (openBoundary turns s)
  if primed (t.ch n) then primingStage n t else s

def execPrimingMet (n : Ch) (turns : List Ch) (s : State) : Host.Outcome State Fault Refusal :=
  .next (live (primingMet n turns) s)

/-- A repeat boundary left owed is resolved (R53). -/
def repeatBoundary (n : Ch) (s : State) : State :=
  if (s.ch n).owes = .repeatBoundary then resolveRepeat n s else s

def execRepeatBoundary (n : Ch) (s : State) : Host.Outcome State Fault Refusal :=
  .next (live (repeatBoundary n) s)

/-- A stream step's end, at its length or by underrun, left owed, is resolved (R55, R56; log entry 7). -/
def streamLengthReached (n : Ch) (s : State) : State :=
  if (s.ch n).owes = .streamEnd then stepEnd n s else s

def execStreamLengthReached (n : Ch) (s : State) : Host.Outcome State Fault Refusal :=
  .next (live (streamLengthReached n) s)

/-- The marker of a playing step has no samples remaining (R59). -/
def markerSpent (c : Channel) : Bool :=
  c.playback == .running && c.run.phase == .playing && c.run.markerLeft == 0 &&
    match c.record with
    | some r => r.marker.isSome
    | none => false

/-- Marker samples remaining is 0: the step's marker outputs fall at this boundary (R59). -/
def markerWidthEnd (n : Ch) (turns : List Ch) (s : State) : State :=
  let t := openBoundary turns s
  if markerSpent (t.ch n) then t.setCh n { t.ch n with markers := {} } else s

def execMarkerWidthEnd (n : Ch) (turns : List Ch) (s : State) : Host.Outcome State Fault Refusal :=
  .next (live (markerWidthEnd n turns) s)

/-- The CLKIN edge with reference-edge count 0: it is a boundary, it opens, and the pending divider takes
effect (R183). -/
def dividerSwitch (turns : List Ch) (s : State) : State :=
  if !s.boundaryOpen && switchDue s.dev then openBoundary turns s else s

def execDividerSwitch (turns : List Ch) (s : State) : Host.Outcome State Fault Refusal :=
  .next (live (dividerSwitch turns) s)

end Sys2Proof.Machine
end

