-- ==== Sys2Proof/Machine/Channels.lean ====
section
/-! DEFINITION. The channel messages: CH-CONFIG, CH-MASK, CH-STATUS, CH-START, CH-STOP (chapters 3 and 7), STREAM-DATA and STREAM-FLUSH (chapter 5). -/

namespace Sys2Proof.Machine

/-! ### CH-CONFIG (R63, R64) -/

/-- The settings four words spell, if every field is in range (R63, R178). -/
def settingsOf (m : Msg) : Option Settings :=
  match endActionOf (bitsOf (msgWord m 1) 1 0) with
  | none => none
  | some act =>
    let t : Settings :=
      { lmin := signedOf (msgWord m 0) 31 16, lmax := signedOf (msgWord m 0) 15 0,
        park := signedOf (msgWord m 1) 31 16, endAction := act,
        lowMark := bitsOf (msgWord m 2) 29 16, highMark := bitsOf (msgWord m 2) 13 0,
        prime := bitsOf (msgWord m 3) 13 0 }
    if t.lmin ≤ t.lmax && t.lmin ≤ t.park && t.park ≤ t.lmax && t.lowMark ≤ 8191
      && 1 ≤ t.highMark && t.highMark ≤ 8192 && t.lowMark < t.highMark
      && 1 ≤ t.prime && t.prime ≤ 8192
    then some t else none

/-- The hold code after an accepted CH-CONFIG (R64, R75). -/
def configuredHold (c : Channel) (t : Settings) : Int :=
  if c.playback = .done && t.endAction = .hold then clamp c.hold t.lmin t.lmax else t.park

/-- CH-CONFIG of a channel with settings in range (R63). -/
def chConfig (n : Ch) (t : Settings) (s : State) : Answer :=
  let c := s.ch n
  if c.active then refuse s .busy
  else accept (s.setCh n { c with settings := t, hold := configuredHold c t })

/-- The block's answer to a CH-CONFIG message (R63, R173, R178). -/
def bodyChConfig (m : Msg) (s : State) : Answer :=
  if m.payload.length ≠ 4 then refuse s .badVal
  else
    match settingsOf m with
    | none => refuse s .badVal
    | some t => chConfig (chOf m.channel) t s

def execChConfig (m : Msg) (s : State) : Host.Outcome State Fault Refusal :=
  .next (between (takeMessage .chConfig m (bodyChConfig m)) s)

/-! ### CH-MASK (R132) -/

/-- CH-MASK of a channel: the mask is set and the pending set pruned to it (R132). -/
def chMask (n : Ch) (mask : CueSet) (s : State) : Answer :=
  let c := s.ch n
  accept (s.setCh n { c with mask := mask, pendingCues := c.pendingCues &&& mask })

/-- The block's answer to a CH-MASK message (R173, R178). -/
def bodyChMask (m : Msg) (s : State) : Answer :=
  if m.payload.length ≠ 2 then refuse s .badVal
  else chMask (chOf m.channel) (cueSetOf (msgWord m 0) (msgWord m 1)) s

def execChMask (m : Msg) (s : State) : Host.Outcome State Fault Refusal :=
  .next (between (takeMessage .chMask m (bodyChMask m)) s)

/-! ### CH-STATUS (R65, R78) -/

/-- The START, START CUE and time fields: words 1 and 2 of CH-STATUS (R178). -/
def startWords : StartCond → List Word
  | .none => [0, 0]
  | .cue n => [put 30 1 ||| put 24 n, 0]
  | .time t => [put 30 2 ||| (t.extractLsb' 32 16).setWidth 32, t.extractLsb' 0 32]

/-- The thirteen words of CH-STATUS (R65, R178). -/
def statusWords (c : Channel) (p : Protection) : List Word :=
  (put 28 c.playback.num
      ||| put 24 (if c.playback = .running then c.run.phase.num else 0)
      ||| put 20 p.state.num ||| put 16 p.cause.num
      ||| putFlag 9 c.clip ||| putFlag 8 c.limit ||| putFlag 7 c.run.leave ||| put 0 c.list.length)
    :: startWords c.run.start
    ++ [ put 24 c.run.step ||| put 0 c.run.i,
         put 16 c.run.f ||| put 0 c.run.repeatsLeft,
         put 16 c.run.markerLeft ||| putSigned 0 c.hold,
         put 0 c.run.consumed,
         put 0 c.stream.fifo.length,
         put 0 c.stream.debt ]
    ++ cueSetWords c.pendingCues ++ cueSetWords c.mask

/-- CH-STATUS of a channel: the report, and then both flags cleared (R65, R78). -/
def chStatus (n : Ch) (s : State) : Answer :=
  let c := s.ch n
  accept (s.setCh n { c with clip := false, limit := false }) (statusWords c (s.pr n))

/-- The block's answer to a CH-STATUS message (R173). -/
def bodyChStatus (m : Msg) (s : State) : Answer :=
  if m.payload.length ≠ 0 then refuse s .badVal else chStatus (chOf m.channel) s

def execChStatus (m : Msg) (s : State) : Host.Outcome State Fault Refusal :=
  .next (between (takeMessage .chStatus m (bodyChStatus m)) s)

/-! ### CH-START (R42 to R47) -/

/-- A start time is late when d = (T − N) mod 2^48 is 0 or at least 2^47 (R46, R47). -/
def startLate (t now : Counter) : Bool := t - now = 0 || (t - now).msb

/-- The start boundary of a start condition: none and a late time start at N + 1, a future time at T, a
cue at no boundary known yet (R44 to R47). -/
def startBoundary (c : StartCond) (now : Counter) : Option Counter :=
  match c with
  | .none => some (now + 1)
  | .cue _ => none
  | .time t => some (if startLate t now then now + 1 else t)

/-- The lateness reported by START_LATE: (N + 1 − T) mod 2^48, low 32 bits (R47). -/
def lateness (t now : Counter) : Word := (now + 1 - t).setWidth 32

/-- START_LATE for a late start time (R47). -/
def reportLate (c : StartCond) (s : State) : State :=
  match c with
  | .time t =>
    if startLate t s.dev.counter then
      enterEvent .startLate none none (some (lateness t s.dev.counter)) s
    else s
  | _ => s

/-- CH-START of channels with a start condition: SHUT, then BUSY, then NOTREADY, over all the named
channels (R42, R43). -/
def chStart (ns : List Ch) (c : StartCond) (s : State) : Answer :=
  if ns.any (fun n => (s.pr n).state == .shut) then refuse s .shut
  else if ns.any (fun n => (s.ch n).active) then refuse s .busy
  else if ns.any (fun n => (s.ch n).list.isEmpty) then refuse s .notReady
  else
    let at_ := startBoundary c s.dev.counter
    accept (reportLate c (eachCh ns (fun n t => t.setCh n ((t.ch n).arm c at_)) s))

/-- The start condition a CH-START message gives, if its fields are in range (R42, R175). -/
def startCondOf (m : Msg) : Option StartCond :=
  let timeP := flagOf (msgWord m 0) 17
  let cueP := flagOf (msgWord m 0) 16
  let cue := bitsOf (msgWord m 0) 15 8
  if (maskChannels (msgWord m 0)).isEmpty then none
  else if cueP && (cue < 1 || 63 < cue) then none
  else if cueP && timeP then none
  else if cueP then some (.cue cue)
  else if timeP then some (.time ((msgWord m 1).extractLsb' 0 16 ++ msgWord m 2))
  else some .none

/-- The block's answer to a CH-START message (R42, R173, R175). -/
def bodyChStart (m : Msg) (s : State) : Answer :=
  if m.payload.length ≠ 3 then refuse s .badVal
  else
    match startCondOf m with
    | none => refuse s .badVal
    | some c => chStart (maskChannels (msgWord m 0)) c s

def execChStart (m : Msg) (s : State) : Host.Outcome State Fault Refusal :=
  .next (between (takeMessage .chStart m (bodyChStart m)) s)

/-! ### CH-STOP (R60, R96) -/

/-- One channel stopped, and flushed when asked (R60, R96). -/
def stopChannel (flush : Bool) (c : Channel) : Channel :=
  if flush then c.toIdle.flush else c.toIdle

/-- CH-STOP of channels (R60). -/
def chStop (ns : List Ch) (flush : Bool) (s : State) : Answer :=
  if ns.isEmpty then refuse s .badVal
  else accept (eachCh ns (fun n t => t.setCh n (stopChannel flush (t.ch n))) s)

/-- The block's answer to a CH-STOP message (R173, R175). -/
def bodyChStop (m : Msg) (s : State) : Answer :=
  if m.payload.length ≠ 1 then refuse s .badVal
  else chStop (maskChannels (msgWord m 0)) (flagOf (msgWord m 0) 8) s

def execChStop (m : Msg) (s : State) : Host.Outcome State Fault Refusal :=
  .next (between (takeMessage .chStop m (bodyChStop m)) s)

/-! ### STREAM-DATA (R87 to R89) -/

/-- The two words of the stream reply: discard and level, then debt (R178). -/
def streamWords (discard : Nat) (b : StreamBuffer) : List Word :=
  [put 16 discard ||| put 0 b.fifo.length, put 0 b.debt]

/-- Data taken by a buffer: the first `min n debt` samples pay the debt, the rest are appended (R88). -/
def streamTake (samples : List Sample) (b : StreamBuffer) : StreamBuffer :=
  let discard := min samples.length b.debt
  ⟨b.fifo ++ samples.drop discard, b.debt - discard⟩

/-- STREAM-DATA of samples to a channel's buffer (R87, R88, R89). -/
def streamData (n : Ch) (samples : List Sample) (s : State) : Answer :=
  let c := s.ch n
  let b := c.stream
  let discard := min samples.length b.debt
  if samples.length < 1 || 510 < samples.length then refuse s .badVal
  else if Config.streamCapacity < b.fifo.length + (samples.length - discard) then
    ⟨s, .full, streamWords 0 b⟩
  else
    let b' := streamTake samples b
    let t := s.setCh n { c with stream := b' }
    accept
      (if b.fifo.length < c.settings.highMark && c.settings.highMark ≤ b'.fifo.length then
        enterEvent .streamHigh (some n) none (some (BitVec.ofNat 32 b'.fifo.length)) t
       else t)
      (streamWords discard b')

/-- The block's answer to a STREAM-DATA message; every LENGTH is expected (R173, R174). -/
def bodyStreamData (m : Msg) (s : State) : Answer :=
  streamData (chOf m.channel) (samplesOf m.half m.payload) s

def execStreamData (m : Msg) (s : State) : Host.Outcome State Fault Refusal :=
  .next (between (takeMessage .streamData m (bodyStreamData m)) s)

/-! ### STREAM-FLUSH (R95) -/

/-- STREAM-FLUSH of a channel's buffer (R95). -/
def streamFlush (n : Ch) (s : State) : Answer := accept (s.setCh n (s.ch n).flush)

/-- The block's answer to a STREAM-FLUSH message (R173). -/
def bodyStreamFlush (m : Msg) (s : State) : Answer :=
  if m.payload.length ≠ 0 then refuse s .badVal else streamFlush (chOf m.channel) s

def execStreamFlush (m : Msg) (s : State) : Host.Outcome State Fault Refusal :=
  .next (between (takeMessage .streamFlush m (bodyStreamFlush m)) s)

end Sys2Proof.Machine
end

