-- ==== Sys2Proof/Machine/Line.lean ====
section
/-! DEFINITION. The wires of the cue line: levels, the receiver on them, the transmitter's drive and tests, and what one move of the line does (R103 to R110, R113, R114, R123). -/

namespace Sys2Proof.Machine

/-! ### Levels (R103, R106) -/

/-- The wire reads low: some part drives it low (R103). -/
def Wire.low (w : Wire) : Bool := w.own || w.others

/-- A wire of the line. -/
def wireOf (c : CueController) : CueLine → Wire
  | .cueck => c.ck
  | .cuedt => c.dt

/-- Whether other parts drive a wire low, told anew. -/
def setOthers (l : CueLine) (low : Bool) (c : CueController) : CueController :=
  match l with
  | .cueck => { c with ck := { c.ck with others := low } }
  | .cuedt => { c with dt := { c.dt with others := low } }

/-- What the part drives low itself, set anew. -/
def driveWires (ck dt : Bool) (c : CueController) : CueController :=
  { c with ck := { c.ck with own := ck }, dt := { c.dt with own := dt } }

/-- The line is idle: both wires read high and the receiver is not inside a frame (R103). -/
def lineIdle (c : CueController) : Bool := !c.ck.low && !c.dt.low && c.receiver == .outside

/-! ### The receiver on the wires (R103, R113, R114) -/

/-- What the receiver makes of a change from levels `ck`, `dt` (true: high) to `ck'`, `dt'`. CUEDT falling or
rising while CUECK is high is a start or a stop condition; the fall of CUECK counts the bit of the high half
it ends, if no condition occurred in that half, and an eighth bit ends the frame. When both wires change at
once CUECK is the first (R107, R123). -/
def hear (ck dt ck' dt' : Bool) (r : Receiver) : Receiver :=
  match r with
  | .outside => if ck && ck' && dt && !dt' then .inside [] true else .outside
  | .inside bits started =>
    if ck && !ck' then
      if started then .inside bits false
      else if 7 ≤ bits.length then .ended (bits ++ [dt])
      else .inside (bits ++ [dt]) false
    else if ck && ck' && dt && !dt' then .reopened
    else if ck && ck' && !dt && dt' then .ended bits
    else .inside bits started
  | .ended bits => .ended bits
  | .reopened => .reopened

/-! ### The transmitter on the wires (R104, R107 to R110) -/

/-- The seven bits of the head entry's frame (R104). -/
def headBits (c : CueController) : List Bool :=
  match c.sendQ with
  | [] => []
  | h :: _ => frameBits h.cue

/-- CUEDT is driven low for bit `j`: a 0 bit, and the stop's halves after the seventh bit (R104, R107, R108). -/
def drivesBit (c : CueController) (j : Nat) : Bool :=
  match (headBits c)[j]? with
  | some b => !b
  | none => true

/-- The frame in flight comes to a phase, with what the part drives there (R106 to R110). -/
def enterPhase (p : SendPhase) (c : CueController) : CueController :=
  match c.inFlight with
  | none => c
  | some f =>
    let d := { c with inFlight := some { f with phase := p } }
    match p with
    | .startHold => driveWires false true d
    | .low j => driveWires true (drivesBit c j) d
    | .wait j | .high j => driveWires false (drivesBit c j) d
    | .stopTest | .made | .lost => driveWires false false d

/-- What the part does when an H it times has passed: the start hold, a low half or a high half is over, or
CUEDT is still low at the test of the stop; with no frame in flight, the last low half of an abandoned frame
is over (R107, R108, R110, R123). -/
def holdOver (c : CueController) : CueController :=
  match c.inFlight with
  | none => driveWires false c.dt.own c
  | some f =>
    match f.phase with
    | .startHold => enterPhase (.low 0) c
    | .low j => enterPhase (.wait j) c
    | .high j => enterPhase (if j < 7 then .low (j + 1) else .stopTest) c
    | .stopTest => enterPhase .lost c
    | .wait _ | .made | .lost => c

/-- What the sender does at the levels it reads: it begins a low half at a fall of CUECK, a high half at its
rise, has lost where it reads a low it does not send, a condition it did not make, or a clock going on past
its stop, and has made its stop once CUEDT rises (R107 to R110, R114). -/
def obey (c : CueController) : CueController :=
  match c.inFlight with
  | none => c
  | some f =>
    match f.phase with
    | .startHold => if c.ck.low then enterPhase (.low 0) c else c
    | .wait j =>
      if c.ck.low then c
      else enterPhase (if c.dt.low && !drivesBit c j then .lost else .high j) c
    | .high j =>
      if c.ck.low then enterPhase (if j < 7 then .low (j + 1) else .lost) c
      else if c.dt.low && !drivesBit c j then enterPhase .lost c
      else c
    | .stopTest =>
      if c.ck.low then enterPhase .lost c
      else if c.dt.low then c
      else enterPhase .made c
    | .low _ | .made | .lost => c

/-! ### One move of the line -/

/-- What the levels make of the timers: the idle timer is back at 0 unless the line is idle, and a stuck report
is armed again by a wire read high (R106, R116). -/
def readTimers (c : CueController) : CueController :=
  { c with
    idleEnough := c.idleEnough && lineIdle c
    stuckCk := c.stuckCk && c.ck.low
    stuckDt := c.stuckDt && c.dt.low }

/-- What follows a change of the wires from those of `before`: the receiver hears it and the sender obeys, each
by the levels it reads (R103). -/
def follow (before c : CueController) : CueController :=
  readTimers (obey { c with
    receiver := hear (!before.ck.low) (!before.dt.low) (!c.ck.low) (!c.dt.low) c.receiver })

/-- The line has brought what a row of its own tells and that row has not been told: the line goes on when it
has (log entry 14). -/
def rowDue (c : CueController) : Bool :=
  (match c.receiver with | .ended _ | .reopened => true | _ => false) ||
    (match c.inFlight with | some f => f.phase == .made || f.phase == .lost | none => false)

/-- One move of the line. -/
def lineMove (m : LineMove) (c : CueController) : CueController :=
  if rowDue c then c
  else
    match m with
    | .pull l => follow c (setOthers l true c)
    | .release l => follow c (setOthers l false c)
    | .holdEnds => follow c (holdOver c)
    | .idleEnough => follow c { c with idleEnough := true }

/-- Moves of the line, in their order. -/
def lineMoves (ms : List LineMove) (c : CueController) : CueController := ms.foldl (fun d m => lineMove m d) c

/-- The cue line after its moves. -/
def moveLine (ms : List LineMove) (s : State) : State := s.setCue (lineMoves ms s.cue)

/-- The transmitter begins: CUEDT driven low, with the H in force (R105, R106). -/
def beginFrame (h : HalfPeriod) (c : CueController) : CueController :=
  follow c (enterPhase .startHold { c with inFlight := some ⟨h, .startHold⟩ })

/-- A frame in flight abandoned by a DEV-RESET: CUEDT is released while CUECK is low, which the part drives
itself where CUEDT is driven with CUECK high, and a CUECK the part drives stays driven for H more, so that no
condition is made. The idle timer is set to 0 (R123). -/
def abandonFrame (c : CueController) : CueController :=
  follow c { driveWires (c.ck.own || (c.dt.own && !c.ck.low)) false c with inFlight := none, idleEnough := false }

/-- Both wires released, wherever the frame stands (R116, R124). -/
def releaseWires (c : CueController) : CueController := driveWires false false c

end Sys2Proof.Machine
end

