-- ==== Sys2Proof/Machine/Cues.lean ====
section
/-! DEFINITION. The cue line: CUE-SEND, TRIG-CONFIG, the transmitter, the receiver, stuck lines and the triggers (chapter 6; R125 to R128). -/

namespace Sys2Proof.Machine

/-! ### CUE-SEND (R120) -/

/-- CUE-SEND of a cue (R120). The OK reply carries the depth after the message and whether an entry was
added (R175). -/
def cueSend (cue : Nat) (s : State) : Answer :=
  if 63 < cue then refuse s .badVal
  else
    match pushVerdict cue s.cue.sendQ with
    | .merged => accept s [put 0 s.cue.sendQ.length]
    | .full => refuse s .full
    | .added =>
      let t := pushCue cue .cueSend s
      accept t [put 0 t.cue.sendQ.length ||| putFlag 8 true]

/-- The block's answer to a CUE-SEND message (R173, R175). -/
def bodyCueSend (m : Msg) (s : State) : Answer :=
  if m.payload.length ≠ 1 then refuse s .badVal else cueSend (bitsOf (msgWord m 0) 7 0) s

def execCueSend (m : Msg) (s : State) : Host.Outcome State Fault Refusal :=
  .next (between (takeMessage .cueSend m (bodyCueSend m)) s)

/-! ### Triggers (R121, R122) -/

/-- The state of a trigger. -/
def trigOf (c : CueController) : TrigPin → Trigger
  | .trig0 => c.trig0
  | .trig1 => c.trig1

/-- The state of a trigger replaced. -/
def setTrig (c : CueController) (t : TrigPin) (g : Trigger) : CueController :=
  match t with
  | .trig0 => { c with trig0 := g }
  | .trig1 => { c with trig1 := g }

/-- TRIG-CONFIG of a pin (R122). -/
def trigConfig (t : TrigPin) (enable falling : Bool) (cue : Nat) (s : State) : Answer :=
  if 63 < cue then refuse s .badVal
  else
    accept (s.setCue (setTrig s.cue t
      { trigOf s.cue t with
        enable := enable, edge := if falling then .falling else .rising, cue := cue }))

/-- The block's answer to a TRIG-CONFIG message (R122, R173, R175). -/
def bodyTrigConfig (m : Msg) (s : State) : Answer :=
  if m.payload.length ≠ 1 then refuse s .badVal
  else
    match trigPinOf (bitsOf (msgWord m 0) 25 24) with
    | none => refuse s .badVal
    | some t =>
      trigConfig t (flagOf (msgWord m 0) 16) (flagOf (msgWord m 0) 8) (bitsOf (msgWord m 0) 7 0) s

def execTrigConfig (m : Msg) (s : State) : Host.Outcome State Fault Refusal :=
  .next (between (takeMessage .trigConfig m (bodyTrigConfig m)) s)

/-- A trigger pin goes to a level; it is being qualified while it differs from the qualified level (R121). -/
def trigPinChange (t : TrigPin) (level : Bool) (s : State) : State :=
  s.setCue (setTrig s.cue t { trigOf s.cue t with pin := level })

def execTrigPinChange (t : TrigPin) (level : Bool) (s : State) : Host.Outcome State Fault Refusal :=
  .next (between (trigPinChange t level) s)

/-- The edge a change of the qualified level to `level` is (R121). -/
def edgeTo (level : Bool) : TrigEdge := if level then .rising else .falling

/-- The new level has been held for 1 µs: the qualified level changes, and an enabled trigger pushes its cue
on its configured edge (R119, R121). -/
def trigEdgeQualified (t : TrigPin) (s : State) : State :=
  let g := trigOf s.cue t
  if g.pin = g.qualified then s
  else
    let u := s.setCue (setTrig s.cue t { g with qualified := g.pin })
    if g.enable && g.edge == edgeTo g.pin then pushOrDrop g.cue (.trigger t) u else u

def execTrigEdgeQualified (t : TrigPin) (s : State) : Host.Outcome State Fault Refusal :=
  .next (between (trigEdgeQualified t) s)

/-! ### The transmitter (R106 to R111) -/

/-- After the moves the transmitter begins a frame for the head entry: the queue is not empty, no frame of its
own is in flight, and the idle timer has reached 2H (R106). -/
def frameStart (moves : List LineMove) (s : State) : State :=
  let t := moveLine moves s
  if t.cue.sendQ.isEmpty || t.cue.inFlight.isSome || !t.cue.idleEnough then t
  else t.setCue (beginFrame t.dev.half t.cue)

def execFrameStart (s : State) (moves : List LineMove := []) : Host.Outcome State Fault Refusal :=
  .next (between (frameStart moves) s)

/-- The frame in flight has come to a phase. -/
def atPhase (p : SendPhase) (c : CueController) : Bool :=
  match c.inFlight with
  | none => false
  | some f => f.phase == p

/-- The sender has made its stop condition: the entry leaves the head (R108). -/
def frameSent (moves : List LineMove) (s : State) : State :=
  let t := moveLine moves s
  if atPhase .made t.cue then t.setCue { t.cue with inFlight := none, sendQ := t.cue.sendQ.tail } else t

def execFrameSent (s : State) (moves : List LineMove := []) : Host.Outcome State Fault Refusal :=
  .next (between (frameSent moves) s)

/-- The sender has lost the frame in flight (R109, R110, R111). -/
def arbitrationLost (moves : List LineMove) (s : State) : State :=
  let t := moveLine moves s
  if atPhase .lost t.cue then loseAttempt t else t

def execArbitrationLost (s : State) (moves : List LineMove := []) : Host.Outcome State Fault Refusal :=
  .next (between (arbitrationLost moves) s)

/-! ### The receiver (R113 to R116, R125 to R128) -/

/-- The effective sample of a cue whose stop is noted now: E = B + D, B the first boundary after the
noting edge (R125). -/
def effectiveSample (d : Device) (onBoundary : Bool) : Counter :=
  d.counter + (if onBoundary then 2 else 1) + BitVec.ofNat 48 d.align

/-- A valid frame's cue handed to the delivery list, or discarded as OVERRUN when it is full (R127, R128). -/
def deliver (cue : Nat) (e : Counter) (s : State) : State :=
  if Config.deliveryEntries ≤ s.cue.delivery.length then cueError (.overrun cue) s
  else s.setCue { s.cue with delivery := s.cue.delivery ++ [⟨cue, e⟩] }

/-- The receiver at the end of a frame judges its bits (R113, R114). -/
def frameReceived (moves : List LineMove) (onBoundary : Bool) (s : State) : State :=
  let t := moveLine moves s
  match t.cue.receiver with
  | .ended bits =>
    let u := t.setCue { t.cue with receiver := .outside }
    match judgeFrame bits with
    | .valid cue => deliver cue (effectiveSample s.dev onBoundary) u
    | .malformed why => cueError why u
  | _ => t

def execFrameReceived (moves : List LineMove) (onBoundary : Bool) (s : State) :
    Host.Outcome State Fault Refusal :=
  .next (between (frameReceived moves onBoundary) s)

/-- After the moves another part drives CUEDT low. With CUECK high that is a start condition: it opens a frame,
and ends as malformed a frame the receiver was inside (R103, R113, R114; log entry 13). -/
def startCondition (moves : List LineMove) (s : State) : State :=
  let t := moveLine (moves ++ [.pull .cuedt]) s
  match t.cue.receiver with
  | .reopened => cueError .framing (t.setCue { t.cue with receiver := .inside [] true })
  | _ => t

def execStartCondition (moves : List LineMove) (s : State) : Host.Outcome State Fault Refusal :=
  .next (between (startCondition moves) s)

/-- The receiver is inside a frame with CUECK high, in a high half the part does not time itself as a sender:
the stall timer runs (R107, R108, R110, R115). -/
def stallRuns (c : CueController) : Bool :=
  (match c.receiver with | .inside _ _ => true | _ => false) && !c.ck.low && c.inFlight.isNone

/-- A receiver inside a frame has read CUECK high for 1 ms: the frame is discarded (R115). -/
def stalledFrame (moves : List LineMove) (s : State) : State :=
  let t := moveLine moves s
  if stallRuns t.cue then cueError .framing (t.setCue { t.cue with receiver := .outside }) else t

def execStalledFrame (s : State) (moves : List LineMove := []) : Host.Outcome State Fault Refusal :=
  .next (between (stalledFrame moves) s)

/-- The line has reported STUCK and has not been read high since (R116). -/
def stuckReported (c : CueController) : CueLine → Bool
  | .cueck => c.stuckCk
  | .cuedt => c.stuckDt

/-- The stuck-reported flag of a line set or cleared. -/
def setStuck (c : CueController) (l : CueLine) (b : Bool) : CueController :=
  match l with
  | .cueck => { c with stuckCk := b }
  | .cuedt => { c with stuckDt := b }

/-- The conditions under which a line's stuck timer counts: sending, receiving, or waiting with a queued
entry (R116). -/
def stuckCounts (c : CueController) : Bool :=
  c.inFlight.isSome || c.receiver != .outside || !c.sendQ.isEmpty

/-- The stuck timer of a line runs and has not reported: the line reads low (R116). -/
def stuckRuns (c : CueController) (l : CueLine) : Bool :=
  (wireOf c l).low && stuckCounts c && !stuckReported c l && !rowDue c

/-- A line has been read low for 1 ms: CUE_ERROR STUCK; a frame in flight is abandoned, both wires released,
and counts a lost attempt; a frame being received is discarded (R116). -/
def stuckLine (l : CueLine) (moves : List LineMove) (s : State) : State :=
  let t := moveLine moves s
  if stuckRuns t.cue l then
    let u := cueError .stuck (t.setCue (setStuck { t.cue with receiver := .outside } l true))
    if t.cue.inFlight.isSome then loseAttempt (u.setCue (readTimers (releaseWires u.cue))) else u
  else t

def execStuckLine (l : CueLine) (s : State) (moves : List LineMove := []) : Host.Outcome State Fault Refusal :=
  .next (between (stuckLine l moves) s)

/-- After the moves the other parts let a line go: read high again, its report is armed again (R116). -/
def stuckLineReleased (l : CueLine) (moves : List LineMove) (s : State) : State :=
  moveLine (moves ++ [.release l]) s

def execStuckLineReleased (l : CueLine) (s : State) (moves : List LineMove := []) :
    Host.Outcome State Fault Refusal :=
  .next (between (stuckLineReleased l moves) s)

end Sys2Proof.Machine
end

