-- ==== Sys2Proof/Machine/Protect.lean ====
section
/-! DEFINITION. The Output Protection Unit: fault inputs, shutdown, CH-RESTORE, die temperature (chapter 8), and the end of the ATTN# pulse (R169). -/

namespace Sys2Proof.Machine

/-! ### Fault inputs (R140 to R145) -/

/-- FLTn# falls: the qualification timer starts from 0 (R140). -/
def faultAssert (n : Ch) (s : State) : State :=
  let p := s.pr n
  if p.asserted then s else s.setPr n { p with asserted := true, qual := .running }

def execFaultAssert (n : Ch) (s : State) : Host.Outcome State Fault Refusal :=
  .next (between (faultAssert n) s)

/-- FLTn# rises: both timers stop and return to 0 (R140, R143). -/
def faultRelease (n : Ch) (s : State) : State :=
  s.setPr n { s.pr n with asserted := false, qual := .stopped, escalating := false }

def execFaultRelease (n : Ch) (s : State) : Host.Outcome State Fault Refusal :=
  .next (between (faultRelease n) s)

/-- A first failure: DERATED with cause FAULT, the escalation timer starts, OVERLOAD is entered
(R142, R144). -/
def firstFailure (n : Ch) (s : State) : State :=
  enterEvent .overload (some n) (s.ch n).runningStep none
    (s.setPr n { s.pr n with state := .derated, cause := .fault, escalating := true })

/-- A shutdown with its reason: SHUT, ENn inactive, the channel forced IDLE, SHUTDOWN entered (R61, R145). -/
def shutDown (n : Ch) (reason : Word) (s : State) : State :=
  enterEvent .shutdown (some n) (s.ch n).runningStep (some reason)
    ((s.setPr n { s.pr n with state := .shut, escalating := false, enable := false }).setCh n
      (s.ch n).toIdle)

/-- A qualified assertion taken by the protection state (R142, R144, R146). -/
def takeQualified (n : Ch) (s : State) : State :=
  let p := s.pr n
  match p.state, p.cause with
  | .normal, _ => firstFailure n s
  | .derated, .temp => firstFailure n s
  | .derated, _ => shutDown n 2#32 s
  | .shut, _ => s

/-- The qualification timer reaches 8 µs (R140). -/
def faultQualified (n : Ch) (s : State) : State :=
  let p := s.pr n
  if p.qual = .running then takeQualified n (s.setPr n { p with qual := .qualified }) else s

def execFaultQualified (n : Ch) (s : State) : Host.Outcome State Fault Refusal :=
  .next (between (faultQualified n) s)

/-- The escalation timer reaches 1 ms on a channel DERATED with cause FAULT (R143). -/
def escalationExpiry (n : Ch) (s : State) : State :=
  let p := s.pr n
  if p.escalating && p.state == .derated && p.cause == .fault then shutDown n 1#32 s else s

def execEscalationExpiry (n : Ch) (s : State) : Host.Outcome State Fault Refusal :=
  .next (between (escalationExpiry n) s)

/-! ### CH-RESTORE (R147) -/

/-- The protection record after an accepted CH-RESTORE (R147, R149). -/
def restored (p : Protection) : Protection :=
  if p.state = .normal then p
  else { p with state := .normal, cause := .none, escalating := false, enable := true }

/-- CH-RESTORE of a channel (R147). -/
def chRestore (n : Ch) (s : State) : Answer :=
  let p := s.pr n
  if p.state != .normal && p.asserted then refuse s .busy
  else accept (s.setPr n (restored p))

/-- The block's answer to a CH-RESTORE message (R173). -/
def bodyChRestore (m : Msg) (s : State) : Answer :=
  if m.payload.length ≠ 0 then refuse s .badVal else chRestore (chOf m.channel) s

def execChRestore (m : Msg) (s : State) : Host.Outcome State Fault Refusal :=
  .next (between (takeMessage .chRestore m (bodyChRestore m)) s)

/-! ### Die temperature (R150, R151) -/

/-- A reading as the sensor limits it (R150). -/
def limitReading (r : Int) : Int := clamp r (-40) 150

/-- The temperature lock derates a NORMAL channel with cause TEMP (R151). -/
def lockDerate (p : Protection) : Protection :=
  if p.state = .normal then { p with state := .derated, cause := .temp } else p

/-- An operation on the protection records of all four channels. -/
def mapProt (f : Protection → Protection) (q : Quad Protection) : Quad Protection :=
  ⟨f q.c0, f q.c1, f q.c2, f q.c3⟩

/-- One comparison of a reading with the thresholds, from the state held (R150, R151). -/
def tempTransition (r : Int) (s : State) : State :=
  match s.temp.state with
  | .cool =>
    if 110 ≤ r then
      enterEvent .tempWarn none none (some (signedWord r)) (s.setTemp { s.temp with state := .warm })
    else s
  | .warm =>
    if 140 ≤ r then
      let t := s.setTemp { s.temp with state := .lock }
      enterEvent .tempLock none none (some (signedWord r)) { t with prot := mapProt lockDerate t.prot }
    else if r ≤ 95 then s.setTemp { s.temp with state := .cool }
    else s
  | .lock =>
    if r ≤ 125 then
      enterEvent .tempClear none none (some (signedWord r)) (s.setTemp { s.temp with state := .warm })
    else s

/-- A reading held and compared, from each state reached until no further transition applies: two
comparisons are enough (R150). -/
def evaluateTemp (reading : Int) (s : State) : State :=
  let r := limitReading reading
  tempTransition r (tempTransition r (s.setTemp { s.temp with reading := r }))

def execTempReading (reading : Int) (s : State) : Host.Outcome State Fault Refusal :=
  .next (between (evaluateTemp reading) s)

/-! ### The ATTN# pulse (R169) -/

/-- The 2 µs pulse timer expires: ATTN# is released (R169). -/
def attnPulseEnd (s : State) : State :=
  if s.events.pulse then s.setEvents { s.events with attn := false, pulse := false } else s

def execAttnPulseEnd (s : State) : Host.Outcome State Fault Refusal := .next (between attnPulseEnd s)

end Sys2Proof.Machine
end

