-- ==== Sys2Proof/Machine/DeviceControl.lean ====
section
/-! DEFINITION. Device messages, the event queue's read, and the resets (chapter 11). -/

namespace Sys2Proof.Machine

/-! ### NOP (R165), IDENTIFY and DEV-STATUS (R186) -/

/-- NOP accepts any payload and ignores it (R165). -/
def bodyNop (_m : Msg) (s : State) : Answer := accept s

def execNop (m : Msg) (s : State) : Host.Outcome State Fault Refusal :=
  .next (between (takeMessage .nop m (bodyNop m)) s)

/-- The two words of IDENTIFY (R178, R186). -/
def identifyWords (d : Device) : List Word :=
  [put 16 0x2E51 ||| put 0 0x0424, putFlag 11 d.attnsel ||| put 8 d.mksel.toNat ||| put 0 1]

/-- IDENTIFY (R186). -/
def bodyIdentify (m : Msg) (s : State) : Answer :=
  if m.payload.length ≠ 0 then refuse s .badVal else accept s (identifyWords s.dev)

def execIdentify (m : Msg) (s : State) : Host.Outcome State Fault Refusal :=
  .next (between (takeMessage .identify m (bodyIdentify m)) s)

/-- The six words of DEV-STATUS (R178, R186). -/
def devStatusWords (s : State) : List Word :=
  [ (s.dev.counter.extractLsb' 32 16).setWidth 32,
    s.dev.counter.extractLsb' 0 32,
    putSigned 16 s.temp.reading ||| put 0 s.temp.state.num,
    put 16 s.cue.sendQ.length ||| put 0 s.cue.delivery.length,
    put 0 (freeCount s.mem.free),
    putFlag 3 s.dev.attnsel ||| put 0 s.dev.mksel.toNat ]

/-- DEV-STATUS (R186). -/
def bodyDevStatus (m : Msg) (s : State) : Answer :=
  if m.payload.length ≠ 0 then refuse s .badVal else accept s (devStatusWords s)

def execDevStatus (m : Msg) (s : State) : Host.Outcome State Fault Refusal :=
  .next (between (takeMessage .devStatus m (bodyDevStatus m)) s)

/-! ### DEV-CONFIG (R170, R183, R185) -/

/-- The divider due: the pending one while a change is pending, else the one in force (R185). -/
def dividerDue (d : Device) : Nat := d.pendingDivider.getD d.divider

/-- The pending divider after an accepted DEV-CONFIG: kept when it is the divider due, cancelled when it is
the one in force, else replaced (R183, R185). -/
def pendingAfter (divider : Nat) (d : Device) : Option Nat :=
  if divider = dividerDue d then d.pendingDivider
  else if divider = d.divider then none
  else some divider

/-- The sample period in progress holds the edge with reference-edge count 0 strictly inside it (R183). -/
def zeroInsidePeriod (d : Device) : Bool :=
  match d.refEdge with
  | none => false
  | some c => 256 < c + d.divider

/-- Whether that edge has passed when a DEV-CONFIG makes a divider pending: a free value; with a change
already pending it has its answer, and an edge that has passed stays passed until the next boundary
(R183; log entry 11). -/
def zeroPassedAfter (freeIndex : Nat) (d : Device) : Bool :=
  if d.pendingDivider.isSome then d.zeroPassed
  else d.zeroPassed || (zeroInsidePeriod d && Config.zeroEdgePassed freeIndex)

/-- ATTN# and the pulse timer at a DEV-CONFIG: LEVEL to PULSE releases the line, PULSE to LEVEL ends a
pulse and asserts the line for a non-empty queue (R170). -/
def switchAttn (old new : AttnMode) (q : EventQueue) : EventQueue :=
  match old, new with
  | .level, .pulse => { q with attn := false }
  | .pulse, .level => { q with attn := !q.records.isEmpty, pulse := false }
  | _, _ => q

/-- DEV-CONFIG of the four device settings (R185). The bus-free test uses the H in force, so an idle timer that
had reached 2H has to reach 2H of a new H (R105, R106; log entry 31). -/
def devConfig (divider : Nat) (hp : HalfPeriod) (mode : AttnMode) (align : Nat) (s : State) : Answer :=
  if divider < 1 || 256 < divider then refuse s .badVal
  else if anyCh s.chans Channel.active && divider != dividerDue s.dev then refuse s .busy
  else
    accept
      ((((s.setEvents (switchAttn s.dev.attnMode mode s.events)).setDev
        { s.dev with
          pendingDivider := pendingAfter divider s.dev
          zeroPassed := zeroPassedAfter s.freeIndex s.dev
          half := hp, attnMode := mode, align := align }).setCue
        { s.cue with idleEnough := s.cue.idleEnough && hp == s.dev.half }).drawFree)

/-- The block's answer to a DEV-CONFIG message (R173, R175). -/
def bodyDevConfig (m : Msg) (s : State) : Answer :=
  if m.payload.length ≠ 1 then refuse s .badVal
  else
    devConfig (bitsOf (msgWord m 0) 24 16) (halfPeriodOf (bitsOf (msgWord m 0) 13 12))
      (attnModeOf (flagOf (msgWord m 0) 8)) (bitsOf (msgWord m 0) 7 0) s

def execDevConfig (m : Msg) (s : State) : Host.Outcome State Fault Refusal :=
  .next (between (takeMessage .devConfig m (bodyDevConfig m)) s)

/-! ### EVENT-READ (R168, R169, R182) -/

/-- The queue after its `r` oldest records are read and the lost indicator cleared; in LEVEL mode ATTN#
follows what remains (R168, R169, R182). -/
def readEvents (r : Nat) (mode : AttnMode) (q : EventQueue) : EventQueue :=
  let rest := q.records.drop r
  { records := rest, lost := false, pulse := q.pulse,
    attn := if mode = .level then !rest.isEmpty else q.attn }

/-- EVENT-READ of up to `max` records (R182). -/
def eventRead (max : Nat) (s : State) : Answer :=
  if max < 1 || 32 < max then refuse s .badVal
  else
    let taken := s.events.records.take max
    accept (s.setEvents (readEvents max s.dev.attnMode s.events))
      ((putFlag 31 s.events.lost ||| put 0 taken.length) :: taken.flatMap eventWords)

/-- The block's answer to an EVENT-READ message (R173, R175). -/
def bodyEventRead (m : Msg) (s : State) : Answer :=
  if m.payload.length ≠ 1 then refuse s .badVal else eventRead (bitsOf (msgWord m 0) 7 0) s

def execEventRead (m : Msg) (s : State) : Host.Outcome State Fault Refusal :=
  .next (between (takeMessage .eventRead m (bodyEventRead m)) s)

/-! ### Resets (R188 to R190) -/

/-- Causes of the RESET reply (R172). -/
inductive ResetCause where
  | powerOn | pinReset | devAll | devPlayback
  deriving DecidableEq, Repr

/-- The cause word (R172). -/
def ResetCause.word : ResetCause → Word
  | .powerOn => 1#32
  | .pinReset => 2#32
  | .devAll => 3#32
  | .devPlayback => 4#32

/-- The answer whose reply is the RESET reply (R166). -/
def resetAnswer (cause : ResetCause) (s : State) : Answer := ⟨s, .reset, [cause.word]⟩

/-- The default settings with a strap value (R63, R86). -/
def defaultSettings (mksel : BitVec 3) : Settings :=
  { lowMark := (strapMarks mksel).1, highMark := (strapMarks mksel).2 }

/-- A channel at its defaults (R190). -/
def defaultChannel (mksel : BitVec 3) : Channel := { settings := defaultSettings mksel }

/-- A protection record at its defaults, its qualification starting at once if its input is asserted (R155). -/
def defaultProt (asserted : Bool) : Protection :=
  { asserted := asserted, qual := if asserted then .running else .stopped }

/-- A trigger at its defaults, its qualified level that of its pin (R121, R122). -/
def defaultTrigger (pin : Bool) : Trigger := { qualified := pin, pin := pin }

/-- An operation on all four channels. -/
def mapCh (f : Channel → Channel) (q : Quad Channel) : Quad Channel := ⟨f q.c0, f q.c1, f q.c2, f q.c3⟩

/-- The part with every block at its defaults from the pins, before the temperature is evaluated (R190).
Power-on finds the pins at 32768 and drops a boundary that stands open; DEV-RESET ALL finishes one first and
keeps what is on its way to the pins (log entry 5). RESET# is found high (log entry 19). -/
def defaults (p : Pins) (s : State) : State where
  mem          := {}
  chans        := ⟨defaultChannel p.mksel, defaultChannel p.mksel, defaultChannel p.mksel, defaultChannel p.mksel⟩
  cue          := { ck := { others := p.ckLow }, dt := { others := p.dtLow },
                    trig0 := defaultTrigger p.trig0, trig1 := defaultTrigger p.trig1 }
  prot         := ⟨defaultProt p.flt0, defaultProt p.flt1, defaultProt p.flt2, defaultProt p.flt3⟩
  temp         := {}
  link         := { reply := s.link.reply, awaitRise := p.selLow }
  events       := {}
  dev          := { mksel := p.mksel, attnsel := p.attnsel, attnMode := attnModeOf p.attnsel }
  boundaryOpen := false
  resetHeld    := false
  freeIndex    := s.freeIndex
  pending      := s.pending

/-- The part begins from its defaults, evaluates the temperature and makes the RESET reply pending
(R155, R166, R190). -/
def startUp (cause : ResetCause) (p : Pins) (s : State) : State :=
  pendReply 0 (resetAnswer cause (evaluateTemp p.reading (defaults p s)))

/-- POWER_ON: power reaches its operating level (R190). Told while RESET# is held low, it finds RESET#
released and the part runs at once: the manual gives no joint outcome (log entry 19). -/
def execPowerOn (p : Pins) (s : State) : Host.Outcome State Fault Refusal :=
  .next (startUp .powerOn p s)

/-- The pins of a channel while RESET# is held low: DAC code 32768, markers low and STBn held low (R82). -/
def holdPins (c : Channel) : Channel := { c with out := { strobe := .heldLow }, markers := {} }

/-- ENn inactive while RESET# is held low (R149). -/
def disable (p : Protection) : Protection := { p with enable := false }

/-- RESET# falls: the window open and the cue frame in flight are abandoned, the outputs are driven as R82,
R124, R149, R157 and R170 state, and the part does nothing until RESET# rises (R190). -/
def pinResetAssert (s : State) : State :=
  { s with
    chans := mapCh holdPins s.chans
    cue := { releaseWires s.cue with inFlight := none, receiver := .outside, idleEnough := false }
    prot := mapProt disable s.prot
    link := { s.link with rxBuffer := [], bitCount := 0, carriedOut := none }
    events := { s.events with attn := false, pulse := false }
    boundaryOpen := false
    resetHeld := true }

def execPinResetAssert (s : State) : Host.Outcome State Fault Refusal := .next (between pinResetAssert s)

/-- PIN_RESET_END: RESET# rises (R190). -/
def pinResetEnd (p : Pins) (s : State) : State := if s.resetHeld then startUp .pinReset p s else s

def execPinResetEnd (p : Pins) (s : State) : Host.Outcome State Fault Refusal :=
  .next (pinResetEnd p s)

/-- The pins as DEV-RESET ALL uses them: the held straps, and the trigger, fault and cue line levels of the
moment (R121, R123, R155, R187, R189). -/
def heldPins (reading : Int) (s : State) : Pins :=
  { mksel := s.dev.mksel, attnsel := s.dev.attnsel, trig0 := s.cue.trig0.pin, trig1 := s.cue.trig1.pin,
    flt0 := s.prot.c0.asserted, flt1 := s.prot.c1.asserted, flt2 := s.prot.c2.asserted,
    flt3 := s.prot.c3.asserted, ckLow := s.cue.ck.others, dtLow := s.cue.dt.others, reading := reading }

/-- The fewest edges that can have passed since the last boundary, whose edge has count `c`: once the edge
with count 0 inside the period has passed, 256 − c (R183; log entry 11). -/
def leastEdges (c : Nat) (d : Device) : Nat := if d.zeroPassed then 256 - c else 0

/-- The edges from the last boundary, whose edge has count `c`, to the next: the period, cut short by a
divider switch that is due at the edge with count 0 (R183). -/
def edgesToBoundary (c : Nat) (d : Device) : Nat := if switchDue d then 256 - c else d.divider

/-- The reference-edge count at a DEV-RESET ALL: it keeps running, and how far into the period the take
comes is a free value below the next boundary (R183, R189; log entry 11). -/
def edgeAtTake (freeIndex : Nat) (d : Device) : Option Nat :=
  match d.refEdge with
  | none => none
  | some c =>
    let low := leastEdges c d
    some ((c + low + Config.edgesIntoPeriod freeIndex % (edgesToBoundary c d - low)) % 256)

/-- A channel keeps what is on its way to the pins (R82, R189). -/
def keepPins (old new : Quad Channel) : Quad Channel :=
  ⟨{ new.c0 with out := old.c0.out }, { new.c1 with out := old.c1.out },
   { new.c2 with out := old.c2.out }, { new.c3 with out := old.c3.out }⟩

/-- DEV-RESET with scope ALL (R189): what power-on does, less the straps, the reference-edge count and the
codes on their way to the pins. It is taken between boundaries: one that stood open is finished first, so the
earlier codes have made their way by it (R82; log entry 5). A frame in flight leaves the wires in the order of
R123. -/
def devResetAll (reading : Int) (s : State) : Answer :=
  let fresh := defaults (heldPins reading s) s
  let t : State :=
    { fresh with
      chans := keepPins s.chans fresh.chans
      cue := driveWires (abandonFrame s.cue).ck.own (abandonFrame s.cue).dt.own fresh.cue
      link := { fresh.link with carriedOut := s.link.carriedOut }
      dev := { fresh.dev with refEdge := edgeAtTake s.freeIndex s.dev }
      freeIndex := s.freeIndex + 1 }
  resetAnswer .devAll (evaluateTemp reading t)

/-- DEV-RESET with scope PLAYBACK (R188). The receiver hears the part's own abandoned frame (R123). -/
def devResetPlayback (s : State) : Answer :=
  resetAnswer .devPlayback
    { s with
      mem := { s.mem with segs := s.mem.segs.map (fun g => { g with refs := 0 }) }
      chans := mapCh Channel.restart s.chans
      cue := { abandonFrame s.cue with sendQ := [], delivery := [] }
      link := { s.link with rxBuffer := [], bitCount := 0 } }

/-- The block's answer to a DEV-RESET message: SCOPE 1 PLAYBACK, 2 ALL, 0 and 3 out of range
(R173, R175, R188). -/
def bodyDevReset (m : Msg) (reading : Int) (s : State) : Answer :=
  if m.payload.length ≠ 1 then refuse s .badVal
  else if bitsOf (msgWord m 0) 1 0 = 1 then devResetPlayback s
  else if bitsOf (msgWord m 0) 1 0 = 2 then devResetAll reading s
  else refuse s .badVal

/-- A message whose word 0 has its SCOPE field set to `scope` (R175; log entry 16). -/
def withScope (scope : Nat) (m : Msg) : Msg :=
  match m.payload with
  | [] => m
  | w :: rest => { m with payload := ((w &&& ~~~(3#32)) ||| put 0 scope) :: rest }

def execDevResetPlayback (m : Msg) (s : State) : Host.Outcome State Fault Refusal :=
  .next (between (takeMessage .devReset (withScope 1 m) (bodyDevReset (withScope 1 m) 0)) s)

def execDevResetAll (m : Msg) (reading : Int) (s : State) : Host.Outcome State Fault Refusal :=
  .next (between (takeMessage .devReset (withScope 2 m) (bodyDevReset (withScope 2 m) reading)) s)

end Sys2Proof.Machine
end

