-- ==== Sys2Proof/Machine/Lists.lean ====
section
/-! DEFINITION. The step-list messages (chapter 2). -/

namespace Sys2Proof.Machine

/-- What the segment checks of R27 find for a record. -/
inductive SegCheck where
  | ready | notReady | notFound
  deriving DecidableEq, Repr

/-- A MEMORY record names a SEALED segment, a defined one that is not SEALED, or none (R27). -/
def checkSegment (s : State) (r : StepRecord) : SegCheck :=
  match r.source with
  | .stream => .ready
  | .memory id =>
    match findSeg s.mem.segs id with
    | none => .notFound
    | some g => if g.state = .sealed then .ready else .notReady

/-- A slot for a record: its loops-remaining counter is its jump count, or 0 without a jump (R26). -/
def newSlot (r : StepRecord) : Slot :=
  ⟨r, match r.jump with | some j => j.count | none => 0⟩

/-! ### LIST-CLEAR (R33) -/

/-- LIST-CLEAR of a channel (R33). -/
def listClear (n : Ch) (s : State) : Answer :=
  let c := s.ch n
  if c.active then refuse s .busy
  else
    accept ((s.setMem (c.list.foldl (fun m t => refOut m t.record) s.mem)).setCh n
      { c with list := [], pendingCues := 0 })

/-- The block's answer to a LIST-CLEAR message (R173). -/
def bodyListClear (m : Msg) (s : State) : Answer :=
  if m.payload.length ≠ 0 then refuse s .badVal else listClear (chOf m.channel) s

def execListClear (m : Msg) (s : State) : Host.Outcome State Fault Refusal :=
  .next (between (takeMessage .listClear m (bodyListClear m)) s)

/-! ### LIST-APPEND (R29) -/

/-- LIST-APPEND of a record to a channel's list: field range, then NOTREADY, then FULL, then NOTFOUND
(R27, R29). -/
def listAppend (n : Ch) (r : StepRecord) (s : State) : Answer :=
  let c := s.ch n
  if !r.inRange then refuse s .badVal
  else if checkSegment s r = .notReady then refuse s .notReady
  else if Config.listSteps ≤ c.list.length then refuse s .full
  else if checkSegment s r = .notFound then refuse s .notFound
  else
    accept ((s.setMem (refIn s.mem r)).setCh n { c with list := c.list ++ [newSlot r] })
      [put 0 c.list.length]

/-- The block's answer to a LIST-APPEND message (R173, R177). -/
def bodyListAppend (m : Msg) (s : State) : Answer :=
  if m.payload.length ≠ 7 then refuse s .badVal
  else listAppend (chOf m.channel) (readRecord m.payload) s

def execListAppend (m : Msg) (s : State) : Host.Outcome State Fault Refusal :=
  .next (between (takeMessage .listAppend m (bodyListAppend m)) s)

/-! ### LIST-REPLACE (R32) -/

/-- LIST-REPLACE of the record at an index: field range and index, then BUSY, NOTREADY, NOTFOUND
(R27, R32). -/
def listReplace (n : Ch) (idx : Nat) (r : StepRecord) (s : State) : Answer :=
  let c := s.ch n
  match c.list[idx]? with
  | none => refuse s .badVal
  | some old =>
    if !r.inRange then refuse s .badVal
    else if c.active then refuse s .busy
    else if checkSegment s r = .notReady then refuse s .notReady
    else if checkSegment s r = .notFound then refuse s .notFound
    else
      accept ((s.setMem (refIn (refOut s.mem old.record) r)).setCh n
        { c with list := c.list.set idx (newSlot r) })

/-- The block's answer to a LIST-REPLACE message: index word, then the record (R173, R177). -/
def bodyListReplace (m : Msg) (s : State) : Answer :=
  if m.payload.length ≠ 8 then refuse s .badVal
  else listReplace (chOf m.channel) (bitsOf (msgWord m 0) 7 0) (readRecord (m.payload.drop 1)) s

def execListReplace (m : Msg) (s : State) : Host.Outcome State Fault Refusal :=
  .next (between (takeMessage .listReplace m (bodyListReplace m)) s)

/-! ### LIST-READ (R35) -/

/-- LIST-READ of a slot: length, counter and record; nothing changes (R35). -/
def listRead (n : Ch) (idx : Nat) (s : State) : Answer :=
  let c := s.ch n
  match c.list[idx]? with
  | none => refuse s .badVal
  | some t => accept s ((put 16 c.list.length ||| put 0 t.loops) :: recordWords t.record)

/-- The block's answer to a LIST-READ message (R173, R177). -/
def bodyListRead (m : Msg) (s : State) : Answer :=
  if m.payload.length ≠ 1 then refuse s .badVal
  else listRead (chOf m.channel) (bitsOf (msgWord m 0) 7 0) s

def execListRead (m : Msg) (s : State) : Host.Outcome State Fault Refusal :=
  .next (between (takeMessage .listRead m (bodyListRead m)) s)

end Sys2Proof.Machine
end

