-- ==== Sys2Proof/Machine/Segments.lean ====
section
/-! DEFINITION. The segment messages and the background clear (chapter 1). -/

namespace Sys2Proof.Machine

/-! ### SEG-DEFINE (R6) -/

/-- The record SEG-DEFINE creates (R2, R6). -/
def newSegment (id l base : Nat) : Segment :=
  { id := id, state := .clearing, base := base, len := l, play := playLength l,
    alloc := allocation l, padded := l < 16, cleared := 0, refs := 0 }

/-- SEG-DEFINE of id and requested length (R6). -/
def segDefine (id l : Nat) (s : State) : Answer :=
  if l < 1 || Config.storeWords < l then refuse s .badVal
  else if (findSeg s.mem.segs id).isSome then refuse s .exists
  else
    match allocate s.mem.free (allocation l) with
    | none => refuse s .noSpace
    | some (base, free) =>
      accept
        (s.setMem { s.mem with
          segs := insertSeg (newSegment id l base) s.mem.segs
          free := free
          clearList := s.mem.clearList ++ [id] })
        [put 0 base, put 0 (allocation l)]

/-- The block's answer to a SEG-DEFINE message (R173, R176). -/
def bodySegDefine (m : Msg) (s : State) : Answer :=
  if m.payload.length ≠ 1 then refuse s .badVal
  else segDefine (bitsOf (msgWord m 0) 31 24) (bitsOf (msgWord m 0) 18 0) s

def execSegDefine (m : Msg) (s : State) : Host.Outcome State Fault Refusal :=
  .next (between (takeMessage .segDefine m (bodySegDefine m)) s)

/-! ### SEG-WRITE (R9) -/

/-- SEG-WRITE of samples at an offset (R9). -/
def segWrite (id offset : Nat) (samples : List Sample) (s : State) : Answer :=
  if samples.length < 1 || 510 < samples.length then refuse s .badVal
  else
    match findSeg s.mem.segs id with
    | none => refuse s .notFound
    | some g =>
      if g.len < offset + samples.length then refuse s .badVal
      else
        match g.state with
        | .clearing => refuse s .busy
        | .sealed => refuse s .sealed
        | .opened =>
          accept (s.setMem { s.mem with
            store := Memory.writeAll s.mem.store (g.base + offset) samples })

/-- The block's answer to a SEG-WRITE message (R173, R174, R176). -/
def bodySegWrite (m : Msg) (s : State) : Answer :=
  if m.payload.length = 0 then refuse s .badVal
  else
    segWrite (bitsOf (msgWord m 0) 31 24) (bitsOf (msgWord m 0) 17 0)
      (samplesOf m.half (m.payload.drop 1)) s

def execSegWrite (m : Msg) (s : State) : Host.Outcome State Fault Refusal :=
  .next (between (takeMessage .segWrite m (bodySegWrite m)) s)

/-! ### SEG-SEAL (R10) -/

/-- The store after a seal: positions L..15 of a padded segment take the sample at position L − 1 (R10). -/
def padStore (g : Segment) (store : Memory) : Memory :=
  if g.padded then
    Memory.writeAll store (g.base + g.len)
      (List.replicate (16 - g.len) (Memory.read store (g.base + g.len - 1)))
  else store

/-- SEG-SEAL of an id (R10). -/
def segSeal (id : Nat) (s : State) : Answer :=
  match findSeg s.mem.segs id with
  | none => refuse s .notFound
  | some g =>
    match g.state with
    | .clearing => refuse s .busy
    | .sealed => refuse s .sealed
    | .opened =>
      accept (s.setMem { s.mem with
        store := padStore g s.mem.store
        segs := updateSeg s.mem.segs id (fun g => { g with state := .sealed }) })

/-- The block's answer to a SEG-SEAL message (R173, R176). -/
def bodySegSeal (m : Msg) (s : State) : Answer :=
  if m.payload.length ≠ 1 then refuse s .badVal
  else segSeal (bitsOf (msgWord m 0) 31 24) s

def execSegSeal (m : Msg) (s : State) : Host.Outcome State Fault Refusal :=
  .next (between (takeMessage .segSeal m (bodySegSeal m)) s)

/-! ### SEG-DELETE (R11, R12) -/

/-- SEG-DELETE of an id: a clear in progress is abandoned, the allocation released and merged (R5, R11).
A free word has no defined content (R1): that the freed words keep their samples in the store is the model's
DESIGN CHOICE (log entry 9). -/
def segDelete (id : Nat) (s : State) : Answer :=
  match findSeg s.mem.segs id with
  | none => refuse s .notFound
  | some g =>
    if 0 < g.refs then refuse s .inUse
    else
      accept (s.setMem { s.mem with
        segs := removeSeg s.mem.segs id
        free := release g.base g.alloc s.mem.free
        clearList := s.mem.clearList.filter (fun i => i != id) })

/-- The block's answer to a SEG-DELETE message (R173, R176). -/
def bodySegDelete (m : Msg) (s : State) : Answer :=
  if m.payload.length ≠ 1 then refuse s .badVal
  else segDelete (bitsOf (msgWord m 0) 31 24) s

def execSegDelete (m : Msg) (s : State) : Host.Outcome State Fault Refusal :=
  .next (between (takeMessage .segDelete m (bodySegDelete m)) s)

/-! ### SEG-QUERY (R14) -/

/-- The six words of a segment record (R176). -/
def segmentWords (g : Segment) : List Word :=
  [ put 24 g.id ||| put 20 g.state.num ||| putFlag 19 g.padded ||| put 0 g.refs,
    put 0 g.base, put 0 g.len, put 0 g.play, put 0 g.alloc, put 0 g.cleared ]

/-- How far the clear of a segment has come when a query meets it: the head of the clear list has moved on
by a free number of words and is not complete (R7, R8; log entry 10). -/
def clearedNow (g : Segment) (s : State) : Nat :=
  g.cleared + Config.clearProgress s.freeIndex % (g.alloc - g.cleared)

/-- The background clear brought up to the moment of a query of segment `g`: only the head of the clear
list is being cleared, in ascending order from its base (R7; log entry 10). -/
def clearCaughtUp (g : Segment) (s : State) : State :=
  if g.state = .clearing && s.mem.clearList.head? == some g.id && g.cleared < g.alloc then
    let c := clearedNow g s
    (s.setMem { s.mem with
      store := Memory.zero s.mem.store g.base c
      segs := updateSeg s.mem.segs g.id (fun h => { h with cleared := c }) }).drawFree
  else s

/-- SEG-QUERY of an id (R14): the record as it stands. The only change is the clear's own progress (R8). -/
def segQuery (id : Nat) (s : State) : Answer :=
  match findSeg s.mem.segs id with
  | none => refuse s .notFound
  | some g =>
    let t := clearCaughtUp g s
    match findSeg t.mem.segs id with
    | none => refuse s .notFound
    | some h => accept t (segmentWords h)

/-- The block's answer to a SEG-QUERY message (R173, R176). -/
def bodySegQuery (m : Msg) (s : State) : Answer :=
  if m.payload.length ≠ 1 then refuse s .badVal
  else segQuery (bitsOf (msgWord m 0) 31 24) s

def execSegQuery (m : Msg) (s : State) : Host.Outcome State Fault Refusal :=
  .next (between (takeMessage .segQuery m (bodySegQuery m)) s)

/-! ### MEM-QUERY (R15) -/

/-- The word of one free region, in units of 16 words (R176). -/
def regionWord (r : Region) : Word := put 16 (r.base / 16) ||| put 0 (r.len / 16)

/-- MEM-QUERY from a first index: the counts and at most 255 records (R15). -/
def memQuery (first : Nat) (s : State) : Answer :=
  if 256 < first then refuse s .badVal
  else
    accept s
      ((put 23 s.mem.free.length ||| put 0 (freeCount s.mem.free))
        :: ((s.mem.free.drop first).take 255).map regionWord)

/-- The block's answer to a MEM-QUERY message (R173, R176). -/
def bodyMemQuery (m : Msg) (s : State) : Answer :=
  if m.payload.length ≠ 1 then refuse s .badVal
  else memQuery (bitsOf (msgWord m 0) 8 0) s

def execMemQuery (m : Msg) (s : State) : Host.Outcome State Fault Refusal :=
  .next (between (takeMessage .memQuery m (bodyMemQuery m)) s)

/-! ### SEG_CLEAR_DONE (R7) -/

/-- The clear of the head of the clear list completes (R7). -/
def segClearDone (s : State) : State :=
  match s.mem.clearList with
  | [] => s
  | id :: rest =>
    match findSeg s.mem.segs id with
    | none => s
    | some g =>
      if g.state = .clearing then
        enterEvent .segCleared none none (some (BitVec.ofNat 32 id))
          (s.setMem { s.mem with
            store := Memory.zero s.mem.store g.base g.alloc
            segs := updateSeg s.mem.segs id (fun h => { h with state := .opened, cleared := h.alloc })
            clearList := rest })
      else s

def execSegClearDone (s : State) : Host.Outcome State Fault Refusal := .next (between segClearDone s)

end Sys2Proof.Machine
end

