-- ==== Sys2Proof/Machine/LinkWindow.lean ====
section
/-! DEFINITION. SELECTION_WINDOW: what the Link Interface makes of a window when SEL# rises (chapter 9). -/

namespace Sys2Proof.Machine

/-- What a window carries (R158 to R162). -/
inductive Judged where
  | zeroWord
  | badFrame
  | badCheck
  | unknown (kind : BitVec 8)
  | frame (k : Kind) (m : Msg)
  deriving DecidableEq, Repr

/-- The message a header word and its payload spell (R171). -/
def readMsg (header : Word) (payload : List Word) : Msg :=
  ⟨header.extractLsb' 21 3, flagOf header 20, payload⟩

/-- A frame of the declared length: check word, then kind (R160, R162, R173). -/
def judgeChecked (header : Word) (rest : List Word) : Judged :=
  let payload := rest.dropLast
  if rest.getLastD 0 ≠ checkWord (header :: payload) then .badCheck
  else
    match Kind.ofCode (header.extractLsb' 24 8) with
    | none => .unknown (header.extractLsb' 24 8)
    | some k => .frame k (readMsg header payload)

/-- The judgement of a window by its bit count, its declared length, its check and its kind
(R158, R159, R160, R162). -/
def judgeWindow (w : Window) : Judged :=
  if windowEdges w = 0 then .zeroWord
  else if windowEdges w % 32 ≠ 0 then .badFrame
  else if Config.maxWindowWords * 32 < windowEdges w then .badFrame
  else
    match w.words with
    | [] => .badFrame
    | header :: rest =>
      if Config.maxPayload < bitsOf header 8 0 || rest.length ≠ bitsOf header 8 0 + 1 then .badFrame
      else judgeChecked header rest

/-- The owning block's answer to a message of a kind (R161). -/
def bodyOf (k : Kind) (m : Msg) (reading : Int) : State → Answer :=
  match k with
  | .nop => bodyNop m
  | .identify => bodyIdentify m
  | .devConfig => bodyDevConfig m
  | .devStatus => bodyDevStatus m
  | .devReset => bodyDevReset m reading
  | .eventRead => bodyEventRead m
  | .segDefine => bodySegDefine m
  | .segWrite => bodySegWrite m
  | .segSeal => bodySegSeal m
  | .segDelete => bodySegDelete m
  | .segQuery => bodySegQuery m
  | .memQuery => bodyMemQuery m
  | .chConfig => bodyChConfig m
  | .chMask => bodyChMask m
  | .chStatus => bodyChStatus m
  | .chRestore => bodyChRestore m
  | .listClear => bodyListClear m
  | .listAppend => bodyListAppend m
  | .listReplace => bodyListReplace m
  | .listRead => bodyListRead m
  | .chStart => bodyChStart m
  | .chStop => bodyChStop m
  | .streamData => bodyStreamData m
  | .streamFlush => bodyStreamFlush m
  | .cueSend => bodyCueSend m
  | .trigConfig => bodyTrigConfig m

/-- What follows the judgement: a zero-word window keeps the pending reply, a window without a takeable
message makes its refusal the pending reply, and a message is taken (R158, R161, R163). -/
def answerWindow (j : Judged) (reading : Int) (s : State) : State :=
  match j with
  | .zeroWord => s
  | .badFrame => pendReply 0 (refuse s .badFrame)
  | .badCheck => pendReply 0 (refuse s .badCheck)
  | .unknown kind => pendReply kind (refuse s .unknown)
  | .frame k m => answerMessage k m (bodyOf k m reading) s

/-- SEL# rises on a window (R158). The rest of an assertion of SEL# that a pin reset found is no window
(R157; log entry 20). -/
def selectionWindow (w : Window) (reading : Int) (s : State) : State :=
  if s.link.awaitRise then s.setLink { s.link with awaitRise := false }
  else answerWindow (judgeWindow w) reading (receiveWindow w s)

def execSelectionWindow (w : Window) (reading : Int) (s : State) : Host.Outcome State Fault Refusal :=
  .next (between (selectionWindow w reading) s)

end Sys2Proof.Machine
end

