-- ==== Sys2Proof/Machine/Dispatch.lean ====
section
/-! DEFINITION. What each command does: one arm per row of the table. -/

namespace Sys2Proof.Machine

def exec (i : Instr) (s : State) : Host.Outcome State Fault Refusal :=
  match i with
  | .nop m => Sys2Proof.Machine.execNop m s
  | .identify m => Sys2Proof.Machine.execIdentify m s
  | .devConfig m => Sys2Proof.Machine.execDevConfig m s
  | .devStatus m => Sys2Proof.Machine.execDevStatus m s
  | .devResetPlayback m => Sys2Proof.Machine.execDevResetPlayback m s
  | .devResetAll m reading => Sys2Proof.Machine.execDevResetAll m reading s
  | .eventRead m => Sys2Proof.Machine.execEventRead m s
  | .segDefine m => Sys2Proof.Machine.execSegDefine m s
  | .segWrite m => Sys2Proof.Machine.execSegWrite m s
  | .segSeal m => Sys2Proof.Machine.execSegSeal m s
  | .segDelete m => Sys2Proof.Machine.execSegDelete m s
  | .segQuery m => Sys2Proof.Machine.execSegQuery m s
  | .memQuery m => Sys2Proof.Machine.execMemQuery m s
  | .chConfig m => Sys2Proof.Machine.execChConfig m s
  | .chMask m => Sys2Proof.Machine.execChMask m s
  | .chStatus m => Sys2Proof.Machine.execChStatus m s
  | .chRestore m => Sys2Proof.Machine.execChRestore m s
  | .listClear m => Sys2Proof.Machine.execListClear m s
  | .listAppend m => Sys2Proof.Machine.execListAppend m s
  | .listReplace m => Sys2Proof.Machine.execListReplace m s
  | .listRead m => Sys2Proof.Machine.execListRead m s
  | .chStart m => Sys2Proof.Machine.execChStart m s
  | .chStop m => Sys2Proof.Machine.execChStop m s
  | .streamData m => Sys2Proof.Machine.execStreamData m s
  | .streamFlush m => Sys2Proof.Machine.execStreamFlush m s
  | .cueSend m => Sys2Proof.Machine.execCueSend m s
  | .trigConfig m => Sys2Proof.Machine.execTrigConfig m s
  | .selectionWindow w reading => Sys2Proof.Machine.execSelectionWindow w reading s
  | .powerOn p => Sys2Proof.Machine.execPowerOn p s
  | .pinResetAssert => Sys2Proof.Machine.execPinResetAssert s
  | .pinResetEnd p => Sys2Proof.Machine.execPinResetEnd p s
  | .sampleBoundary turns deferred => Sys2Proof.Machine.execSampleBoundary turns deferred s
  | .startTimeReached n turns => Sys2Proof.Machine.execStartTimeReached n turns s
  | .primingMet n turns => Sys2Proof.Machine.execPrimingMet n turns s
  | .repeatBoundary n => Sys2Proof.Machine.execRepeatBoundary n s
  | .streamLengthReached n => Sys2Proof.Machine.execStreamLengthReached n s
  | .markerWidthEnd n turns => Sys2Proof.Machine.execMarkerWidthEnd n turns s
  | .dividerSwitch turns => Sys2Proof.Machine.execDividerSwitch turns s
  | .segClearDone => Sys2Proof.Machine.execSegClearDone s
  | .frameStart moves => Sys2Proof.Machine.execFrameStart s moves
  | .frameSent moves => Sys2Proof.Machine.execFrameSent s moves
  | .arbitrationLost moves => Sys2Proof.Machine.execArbitrationLost s moves
  | .frameReceived moves onBoundary => Sys2Proof.Machine.execFrameReceived moves onBoundary s
  | .stalledFrame moves => Sys2Proof.Machine.execStalledFrame s moves
  | .stuckLine l moves => Sys2Proof.Machine.execStuckLine l s moves
  | .cueEffectiveSample turns => Sys2Proof.Machine.execCueEffectiveSample turns s
  | .trigPinChange t level => Sys2Proof.Machine.execTrigPinChange t level s
  | .trigEdgeQualified t => Sys2Proof.Machine.execTrigEdgeQualified t s
  | .faultAssert n => Sys2Proof.Machine.execFaultAssert n s
  | .faultRelease n => Sys2Proof.Machine.execFaultRelease n s
  | .faultQualified n => Sys2Proof.Machine.execFaultQualified n s
  | .escalationExpiry n => Sys2Proof.Machine.execEscalationExpiry n s
  | .tempReading reading => Sys2Proof.Machine.execTempReading reading s
  | .attnPulseEnd => Sys2Proof.Machine.execAttnPulseEnd s
  | .startCondition moves => Sys2Proof.Machine.execStartCondition moves s
  | .stuckLineReleased l moves => Sys2Proof.Machine.execStuckLineReleased l s moves

end Sys2Proof.Machine
end

