-- ==== Sys2Proof/Safety.lean ====
section
/-! DEFINITION. What a good state of the part is: the invariants the manual states of its blocks. -/

namespace Sys2Proof.Machine

/-- The step goes on: it neither faults nor refuses. -/
def stepSafe (s : State) : Prop := ∃ t, step s = .next t

/-- A property of states that every step keeps. -/
def KeptByStep (inv : State → Prop) : Prop := ∀ s t : State, inv s → step s = .next t → inv t

/-- The store keeps its canonical form (log entry 9). -/
def StoreOk (s : State) : Prop := Memory.wf s.mem.store = true

/-! ### The terms the statements use -/

/-- Two states agree on every block that no sample boundary writes. -/
def SameOutside (s t : State) : Prop :=
  t.mem = s.mem ∧ t.prot = s.prot ∧ t.temp = s.temp ∧ t.link = s.link ∧ t.resetHeld = s.resetHeld ∧
    t.freeIndex = s.freeIndex ∧ t.pending = s.pending

/-- The part is out of reset and stands between two boundaries, where every command that is no moment of a
boundary acts; at a boundary that stands open such a command first finishes it (R41; log entry 5). -/
abbrev Between (s : State) : Prop := s.resetHeld = false ∧ s.boundaryOpen = false

/-- The part stands between two boundaries and a window it sees begins with SEL#'s fall (R157). -/
abbrev LinkReady (s : State) : Prop := Between s ∧ s.link.awaitRise = false

/-- Message `m` of kind `k` reaches the block that owns it: the link is ready, and the frame, channel and
lock classes of the refusal order do not refuse it (R161, R162). -/
abbrev Taken (k : Kind) (m : Msg) (s : State) : Prop :=
  LinkReady s ∧ m.payload.length ≤ Config.maxPayload ∧ badChannel k m.channel = false ∧
    (k.lockable = true → s.temp.state ≠ .lock)

/-- State `t` with the link as it stands when message `m` of kind `k`, met in state `s`, has been answered:
the window's words held, the earlier reply carried out, the answer pending (R156, R163, R164). -/
def answered (k : Kind) (m : Msg) (code : ReplyCode) (payload : List Word) (s t : State) : State :=
  t.setLink
    { rxBuffer := frameWords k.code m
      bitCount := 32 * (m.payload.length + 2)
      reply := ⟨k.code, code, summaryOf t, payload⟩
      carriedOut := some ⟨s.link.reply, 32 * (m.payload.length + 2)⟩
      awaitRise := false }

/-- State `s` after a window that carried no message to take: only the link differs (R158 to R160, R162). -/
def discarded (kind : BitVec 8) (code : ReplyCode) (w : Window) (s : State) : State :=
  s.setLink { (receiveWindow w s).link with reply := ⟨kind, code, summaryOf s, []⟩ }

/-- The row of the table that carries a message of a kind; DEV-RESET has two, told apart by its SCOPE. -/
def rowOf (k : Kind) (m : Msg) : Instr :=
  match k with
  | .nop => .nop m
  | .identify => .identify m
  | .devConfig => .devConfig m
  | .devStatus => .devStatus m
  | .devReset => .devResetPlayback m
  | .eventRead => .eventRead m
  | .segDefine => .segDefine m
  | .segWrite => .segWrite m
  | .segSeal => .segSeal m
  | .segDelete => .segDelete m
  | .segQuery => .segQuery m
  | .memQuery => .memQuery m
  | .chConfig => .chConfig m
  | .chMask => .chMask m
  | .chStatus => .chStatus m
  | .chRestore => .chRestore m
  | .listClear => .listClear m
  | .listAppend => .listAppend m
  | .listReplace => .listReplace m
  | .listRead => .listRead m
  | .chStart => .chStart m
  | .chStop => .chStop m
  | .streamData => .streamData m
  | .streamFlush => .streamFlush m
  | .cueSend => .cueSend m
  | .trigConfig => .trigConfig m

/-- The six summary bits of the pending reply show the state (R164). -/
def SummaryShows (t : State) : Prop :=
  (t.link.reply.summary.ev = true ↔ t.events.records ≠ []) ∧
    (t.link.reply.summary.evLost = true ↔ t.events.lost = true) ∧
    (t.link.reply.summary.tWarn = true ↔ t.temp.state = .warm ∨ t.temp.state = .lock) ∧
    (t.link.reply.summary.tLock = true ↔ t.temp.state = .lock) ∧
    (t.link.reply.summary.der = true ↔ ∃ n, (t.pr n).state = .derated) ∧
    (t.link.reply.summary.shut = true ↔ ∃ n, (t.pr n).state = .shut)

/-- The rows of the table that tell a sample boundary, one of its moments, or the resolution of a step end. -/
def tellsMoment : Instr → Bool
  | .sampleBoundary .. | .startTimeReached .. | .primingMet .. | .markerWidthEnd .. | .dividerSwitch ..
  | .cueEffectiveSample .. | .repeatBoundary .. | .streamLengthReached .. => true
  | _ => false

/-- The rows at which every block begins afresh from the pins. -/
def beginsAfresh : Instr → Bool
  | .powerOn .. | .pinResetEnd .. => true
  | _ => false

/-- Out of reset, no cue is due at the boundary the counter shows, so that at a boundary that stands open the
priming and code stages are next. -/
abbrev AtCodes (s : State) : Prop :=
  s.resetHeld = false ∧ ∀ d ∈ s.cue.delivery, d.effect ≠ s.dev.counter

/-- The step a channel enters at boundary `k`: step 0 of a channel ARMED for that boundary, the next index of
a RUNNING one, or none (R41 stage 1). -/
def entryOf (k : Counter) (c : Channel) : Option Nat :=
  if c.playback = .armed ∧ c.run.startAt = some k then some 0
  else if c.playback = .running then c.run.next
  else none

/-- The channel after presenting a code with marker levels: it is the hold code, and the way to the pins has
moved by one boundary (R73, R75, R80, R81). -/
def presenting (code : Int) (m : MarkerLevels) (c : Channel) : Channel :=
  { c with
    hold := code
    markers := m
    out :=
      { d1 := ⟨code, m⟩, d2 := c.out.d1, d3 := c.out.d2
        pin := ⟨BitVec.ofInt 16 (c.out.d3.code + 32768), c.out.d3.markers⟩
        strobe := c.out.strobe } }

/-- The next index of an ended step `k` (R56). -/
def nextIndex (t : Slot) (k : Nat) : Nat :=
  match t.record.jump with
  | none => k + 1
  | some j => if j.count = 0 ∨ 0 < t.loops then j.target else k + 1

/-- The loops-remaining counter of a slot whose step has ended (R56). -/
def loopsAfter (t : Slot) : Nat :=
  match t.record.jump with
  | none => t.loops
  | some j => if j.count = 0 then t.loops else if 0 < t.loops then t.loops - 1 else j.count

/-- The channel after the end of its current step, held in slot `t`: a next index inside the list waits for
the next boundary, any other is list end (R56, R57, R75). -/
def afterStepEnd (t : Slot) (c : Channel) : Channel :=
  let list := c.list.set c.run.step { t with loops := loopsAfter t }
  if nextIndex t c.run.step < c.list.length then
    { c with list := list, run := { c.run with next := some (nextIndex t c.run.step), owed := .nothing } }
  else
    { c with
      list := list
      playback := .done
      run := { c.run with next := none, owed := .nothing }
      hold := match c.settings.endAction with | .park => c.settings.park | .hold => c.hold }

/-- The records of a kind about channel `n` that the event queue has gained from `s` to `t`. -/
def recordsOf (s t : State) (k : EventKind) (n : Ch) : List Event :=
  (t.events.records.drop s.events.records.length).filter
    (fun e => decide (e.kind = k ∧ e.channel = some n))

/-- From `s` to `t` the records of a kind entered about channel `n` are exactly the one given, or none; one
that found the queue full is discarded, with the lost indicator set (R181). -/
def Tells (s t : State) (k : EventKind) (n : Ch) (e : Option Event) : Prop :=
  recordsOf s t k n = e.toList ∨
    (recordsOf s t k n = [] ∧ t.events.lost = true ∧ 32 ≤ t.events.records.length)

/-! ### Segment Table (R2, R3, R7) -/

/-- A word lies in a run of words. -/
def inRun (base len a : Nat) : Bool := base ≤ a && a < base + len

/-- How many free regions and segments hold word `a`. -/
def ownersOf (m : SegMem) (a : Nat) : Nat :=
  m.free.countP (fun r => inRun r.base r.len a) + m.segs.countP (fun g => inRun g.base g.alloc a)

/-- The free-region list: ascending, none adjacent to the next, base and length multiples of 16, length at
least 16 (R3). -/
def RegionsOk (l : List Region) : Prop :=
  l.Pairwise (fun r q => r.base + r.len < q.base) ∧
    ∀ r ∈ l, r.base % 16 = 0 ∧ r.len % 16 = 0 ∧ 16 ≤ r.len

/-- The fields of one segment record (R2). -/
def SegmentOk (g : Segment) : Prop :=
  g.id ≤ 255 ∧ 1 ≤ g.len ∧ g.len ≤ Config.storeWords ∧ g.play = playLength g.len ∧
    g.alloc = allocation g.len ∧ g.padded = decide (g.len < 16) ∧ g.base % 16 = 0 ∧
    g.cleared ≤ g.alloc ∧ (g.state ≠ .clearing → g.cleared = g.alloc)

/-- One record per id, in id order (R2). -/
def IdsOk (segs : List Segment) : Prop := segs.Pairwise (fun g h => g.id < h.id)

/-- The clear list holds the ids of the CLEARING segments, each once (R7). -/
def ClearListOk (m : SegMem) : Prop :=
  m.clearList.Nodup ∧ ∀ id, id ∈ m.clearList ↔ ∃ g ∈ m.segs, g.id = id ∧ g.state = .clearing

/-- The Segment Table: every store word belongs to exactly one segment or free region (R2, R3, R7). -/
def TableOk (s : State) : Prop :=
  (∀ a, ownersOf s.mem a = if a < Config.storeWords then 1 else 0) ∧ RegionsOk s.mem.free ∧
    IdsOk s.mem.segs ∧ (∀ g ∈ s.mem.segs, SegmentOk g) ∧ ClearListOk s.mem

/-- Store words allocated to segments and store words in free regions. -/
def accountedWords (m : SegMem) : Nat := (m.segs.map Segment.alloc).sum + freeCount m.free

/-! ### Step lists (R13, R20, R26) -/

/-- The slot's step names segment `id`. -/
def namesSeg (id : Nat) (t : Slot) : Bool := t.record.source == .memory id

/-- The steps of the four lists that name segment `id`. -/
def stepsNaming (s : State) (id : Nat) : Nat :=
  ((s.ch .ch0).list ++ (s.ch .ch1).list ++ (s.ch .ch2).list ++ (s.ch .ch3).list).countP (namesSeg id)

/-- Reference counts equal the steps that name the segment, a referenced segment is SEALED, and every step
names a defined segment; one record per id (R13). -/
def RefsOk (s : State) : Prop :=
  IdsOk s.mem.segs ∧
    (∀ g ∈ s.mem.segs, g.refs = stepsNaming s g.id ∧ (0 < g.refs → g.state = .sealed)) ∧
    ∀ id, 0 < stepsNaming s id → (findSeg s.mem.segs id).isSome = true

/-- A step list: at most 64 slots, each record in range, each counter 0..65535 (R20, R21, R26). -/
def ListOk (c : Channel) : Prop :=
  c.list.length ≤ Config.listSteps ∧
    ∀ t ∈ c.list, t.record.inRange = true ∧ t.loops ≤ 65535

/-- Every step list is as R20, R21 and R26 say. -/
def ListsOk (s : State) : Prop := ∀ n, ListOk (s.ch n)

/-! ### Channels (R52, R76, R85, R94, R134) -/

/-- A stream buffer: level and debt in range, never both above 0 (R85, R94). -/
def StreamOk (s : State) : Prop :=
  ∀ n, (s.ch n).stream.fifo.length ≤ Config.streamCapacity ∧ (s.ch n).stream.debt ≤ Config.maxDebt ∧
    ((s.ch n).stream.fifo.length = 0 ∨ (s.ch n).stream.debt = 0)

/-- A channel's window is a range of 16-bit codes, and its park code and hold code lie in it (R63, R76). -/
def InWindow (c : Channel) : Prop :=
  (-32768) ≤ c.settings.lmin ∧ c.settings.lmin ≤ c.settings.park ∧ c.settings.park ≤ c.settings.lmax ∧
    c.settings.lmax ≤ 32767 ∧ c.settings.lmin ≤ c.hold ∧ c.hold ≤ c.settings.lmax

/-- Every channel's codes lie in its window (R76). -/
def WindowOk (s : State) : Prop := ∀ n, InWindow (s.ch n)

/-- The pending set holds only cues of the mask, and cue 0 is in neither (R134). -/
def PendingOk (s : State) : Prop :=
  ∀ n, (s.ch n).pendingCues &&& ~~~(s.ch n).mask = 0 ∧ cueIn (s.ch n).mask 0 = false

/-- A RUNNING channel is at a step of its list, and a memory step stands inside its segment (R52). -/
def PositionOk (s : State) : Prop :=
  ∀ n, (s.ch n).playback = .running →
    (s.ch n).run.step < (s.ch n).list.length ∧ (s.ch n).run.f < 65536 ∧
      ∀ g, (∃ r, (s.ch n).record = some r ∧ ∃ id, r.source = .memory id ∧
        findSeg s.mem.segs id = some g) → (s.ch n).run.i < g.play

/-- Every step a RUNNING channel has entered plays: it is at a step of its list with a prime level of at
least 1, a step that does not play yet has consumed nothing, and a stream step that plays has played a
sample, or stands at its first boundary with one held (R51, R55, R56, R90). -/
def PlayedOk (s : State) : Prop :=
  ∀ n, 1 ≤ (s.ch n).settings.prime ∧ ((s.ch n).playback = .running →
    (s.ch n).run.step < (s.ch n).list.length ∧
      ((s.ch n).run.phase ≠ .playing → (s.ch n).run.consumed = 0) ∧
      ∀ r, (s.ch n).record = some r → r.source = .stream → (s.ch n).run.phase = .playing →
        1 ≤ (s.ch n).run.consumed ∨ (s.boundaryOpen = true ∧ (s.ch n).stream.fifo ≠ []))

/-! ### Cue Controller, events, protection (R82, R118, R145, R149, R151, R168, R169, R180) -/

/-- The three queues hold at most 32, 8 and 16 (R180). -/
def QueuesOk (s : State) : Prop :=
  s.events.records.length ≤ Config.eventRecords ∧ s.cue.sendQ.length ≤ Config.sendQueueEntries ∧
    s.cue.delivery.length ≤ Config.deliveryEntries

/-- While the part runs, its send queue holds at most one cue 0 entry, at its head or second behind an
entry in flight (R118). -/
def Cue0Ok (s : State) : Prop :=
  s.resetHeld = false →
    s.cue.sendQ.countP (fun e => e.cue == 0) ≤ 1 ∧
      ∀ i e, s.cue.sendQ[i]? = some e → e.cue = 0 → i = 0 ∨ (i = 1 ∧ s.cue.inFlight.isSome = true)

/-- The wires and the receiver are where a phase of the part's own frame has them: the part drives what the phase
calls for and nothing else, reads what it sends, and its receiver has kept exactly the bits sent (R107 to R110,
R113). -/
def PhaseOk (c : CueController) : SendPhase → Prop
  | .startHold => c.ck = ⟨false, false⟩ ∧ c.dt.own = true ∧ c.receiver = .inside [] true
  | .low j =>
    j ≤ 7 ∧ c.ck.own = true ∧ c.dt.own = drivesBit c j ∧ c.receiver = .inside ((headBits c).take j) false
  | .wait j =>
    j ≤ 7 ∧ c.ck = ⟨false, true⟩ ∧ c.dt.own = drivesBit c j ∧
      c.receiver = .inside ((headBits c).take j) false
  | .high j =>
    j ≤ 7 ∧ c.ck = ⟨false, false⟩ ∧ c.dt.own = drivesBit c j ∧ c.dt.low = drivesBit c j ∧
      c.receiver = .inside ((headBits c).take j) false
  | .stopTest => c.ck = ⟨false, false⟩ ∧ c.dt = ⟨false, true⟩ ∧ c.receiver = .inside (headBits c) false
  | .made =>
    c.ck.own = false ∧ c.dt.own = false ∧ (c.receiver = .ended (headBits c) ∨ c.receiver = .outside)
  | .lost => c.ck.own = false ∧ c.dt.own = false

/-- While the part runs: an idle timer at 2H means an idle line, a stuck line that has reported reads low, the
part drives CUEDT for a frame in flight only, and such a frame belongs to the head of the queue and stands as
its phase says (R103, R106, R108, R116, R117). -/
def LineOk (s : State) : Prop :=
  s.resetHeld = false →
    (s.cue.idleEnough = true → lineIdle s.cue = true) ∧
    (s.cue.stuckCk = true → s.cue.ck.low = true) ∧ (s.cue.stuckDt = true → s.cue.dt.low = true) ∧
    (s.cue.inFlight = none → s.cue.dt.own = false) ∧
    ∀ f, s.cue.inFlight = some f → s.cue.sendQ ≠ [] ∧ PhaseOk s.cue f.phase

/-- ENn is active exactly when the part is out of reset and the channel is not SHUT, and a SHUT channel is
IDLE (R145, R149). -/
def ShutOk (s : State) : Prop :=
  ∀ n, (s.pr n).enable = (!s.resetHeld && (s.pr n).state != .shut) ∧
    ((s.pr n).state = .shut → (s.ch n).playback = .idle)

/-- STBn is held low exactly while RESET# is, and the bus then drives DAC code 32768 with markers low (R82). -/
def StrobeOk (s : State) : Prop :=
  ∀ n, ((s.ch n).out.strobe = .heldLow ↔ s.resetHeld = true) ∧
    (s.resetHeld = true → (s.ch n).out.pin = ⟨0x8000#16, ⟨false, false⟩⟩)

/-- While the temperature state is LOCK every channel is DERATED or SHUT (R151). -/
def LockOk (s : State) : Prop := s.temp.state = .lock → ∀ n, (s.pr n).state ≠ .normal

/-- ATTN# follows the queue in LEVEL mode and the pulse timer in PULSE mode (R168, R169). -/
def AttnOk (s : State) : Prop :=
  s.resetHeld = false →
    (s.dev.attnMode = .level → s.events.attn = !s.events.records.isEmpty ∧ s.events.pulse = false) ∧
      (s.dev.attnMode = .pulse → s.events.attn = s.events.pulse)

/-- A state in which every block is as the manual says. -/
def State.Ok (s : State) : Prop :=
  StoreOk s ∧ TableOk s ∧ RefsOk s ∧ ListsOk s ∧ StreamOk s ∧ WindowOk s ∧ PendingOk s ∧ PositionOk s ∧
    PlayedOk s ∧ QueuesOk s ∧ Cue0Ok s ∧ LineOk s ∧ ShutOk s ∧ StrobeOk s ∧ LockOk s ∧ AttnOk s

end Sys2Proof.Machine
end

