-- ==== Sys2Proof/Certificates/Slice0/Obligations.lean ====
section
/-! DEFINITION. The statements about the part, for the provers. -/

open Sys2Proof Sys2Proof.Machine

/-- A step executes the command at the front of the queue, on the state with the queue's rest. That the
part idles on an empty queue is the model's choice (log entry 2). -/
def Obligations.StepTakesTheFrontCommand : Prop :=
  (∀ (c : Instr) (rest : List Instr) (s : State),
    step { s with pending := c :: rest } = exec c { s with pending := rest }) ∧
  ∀ s : State, s.pending = [] → step s = .next s

/-- Every command, in every state, leaves a next state, and none touches the queue of commands. That nothing
stops is the model's choice (log entry 25), with log entries 3 and 19 for a row whose condition does not
hold. -/
def Obligations.EveryCommandLeavesANextState : Prop :=
  ∀ (c : Instr) (s : State), ∃ t, exec c s = .next t ∧ t.pending = s.pending

/-- The window that carries a message's frame is judged to carry that kind and that message: KIND, CHANNEL,
HALF, LENGTH, the payload and the check word all come back. -/
def Obligations.WindowCarriesItsFrame : Prop :=
  ∀ (k : Kind) (m : Msg), m.payload.length ≤ 256 → judgeWindow (frameWindow k.code m) = .frame k m

/-- SELECTION_WINDOW on the window of a message's frame leaves the next state of the message's own row. That
the two DEV-RESET rows fix the SCOPE field is the model's choice (log entry 16). -/
def Obligations.SelectionWindowTakesTheRow : Prop :=
  (∀ (k : Kind) (m : Msg) (reading : Int) (s : State), k ≠ .devReset → m.payload.length ≤ 256 →
    ∃ t, exec (rowOf k m) s = .next t ∧
      exec (.selectionWindow (frameWindow k.code m) reading) s = .next t) ∧
  (∀ (m : Msg) (reading : Int) (s : State), m.payload.length ≤ 256 →
    (∃ t, exec (.devResetPlayback m) s = .next t ∧
      exec (.selectionWindow (frameWindow Kind.devReset.code (withScope 1 m)) reading) s = .next t) ∧
    ∃ t, exec (.devResetAll m reading) s = .next t ∧
      exec (.selectionWindow (frameWindow Kind.devReset.code (withScope 2 m)) reading) s = .next t) ∧
  ∀ (m : Msg) (reading : Int) (s : State), Taken .nop m s →
    exec (.selectionWindow (frameWindow Kind.nop.code m) reading) s =
      .next (answered .nop m .ok [] s s)

/-- Windows that carry no message to take: the judgement in its order, and the reply each leaves. Nothing
but the link changes. -/
def Obligations.DiscardedWindows : Prop :=
  ∀ (w : Window) (reading : Int) (s : State), LinkReady s →
    (windowEdges w = 0 →
      exec (.selectionWindow w reading) s =
        .next (s.setLink { s.link with rxBuffer := w.words, bitCount := 0, carriedOut := none })) ∧
    (windowEdges w % 32 ≠ 0 ∨ 8256 < windowEdges w →
      exec (.selectionWindow w reading) s = .next (discarded 0 .badFrame w s)) ∧
    ∀ header rest, w.words = header :: rest → w.tail = [] → rest.length ≤ 257 →
      (256 < bitsOf header 8 0 ∨ rest.length ≠ bitsOf header 8 0 + 1 →
        exec (.selectionWindow w reading) s = .next (discarded 0 .badFrame w s)) ∧
      (rest.length = bitsOf header 8 0 + 1 → bitsOf header 8 0 ≤ 256 →
        (rest.getLastD 0 ≠ checkWord (header :: rest.dropLast) →
          exec (.selectionWindow w reading) s = .next (discarded 0 .badCheck w s)) ∧
        (rest.getLastD 0 = checkWord (header :: rest.dropLast) →
          (∀ k : Kind, k.code ≠ header.extractLsb' 24 8) →
          exec (.selectionWindow w reading) s =
            .next (discarded (header.extractLsb' 24 8) .unknown w s)))

/-- The channel and lock classes of the refusal order and the LENGTH each kind expects, for every kind, ahead
of every other field range; and the SCOPE values DEV-RESET does not assign. -/
def Obligations.ChannelThenLockRefusals : Prop :=
  ∀ (k : Kind) (m : Msg) (reading : Int) (s : State), LinkReady s → m.payload.length ≤ 256 →
    let refused := fun code : ReplyCode =>
      exec (.selectionWindow (frameWindow k.code m) reading) s = .next (answered k m code [] s s)
    let locked := s.temp.state = .lock ∧ k ∈ [Kind.devConfig, .chConfig, .trigConfig, .listClear,
      .listAppend, .listReplace, .chStart, .chRestore]
    let lengthOk := match k with
      | .nop | .streamData => True
      | .segWrite => 1 ≤ m.payload.length
      | .identify | .devStatus | .chStatus | .chRestore | .listClear | .streamFlush =>
        m.payload.length = 0
      | .devConfig | .devReset | .eventRead | .segDefine | .segSeal | .segDelete | .segQuery
      | .memQuery | .listRead | .chStop | .cueSend | .trigConfig => m.payload.length = 1
      | .chMask => m.payload.length = 2
      | .chStart => m.payload.length = 3
      | .chConfig => m.payload.length = 4
      | .listAppend => m.payload.length = 7
      | .listReplace => m.payload.length = 8
    (m.channel = 4#3 ∨ m.channel = 5#3 ∨ m.channel = 6#3 ∨
        (m.channel = 7#3 ∧ k ∈ [Kind.chConfig, .chMask, .chStatus, .chRestore, .listClear, .listAppend,
          .listReplace, .listRead, .streamData, .streamFlush]) → refused .badChan) ∧
    (badChannel k m.channel = false →
      (locked → refused .locked) ∧
      (¬ locked → ¬ lengthOk → refused .badVal) ∧
      (k = .devReset → m.payload.length = 1 →
        bitsOf (msgWord m 0) 1 0 = 0 ∨ bitsOf (msgWord m 0) 1 0 = 3 → refused .badVal))

/-- The six summary bits, read when the reply is built, after the message's own effect; and the bits in which the
host reads any reply: the header word, the check word, and what SDO carries in a window. -/
def Obligations.SummaryBitsAfterEffect : Prop :=
  (∀ (w : Window) (reading : Int) (s t : State), s.resetHeld = false → s.link.awaitRise = false →
    windowEdges w ≠ 0 →
    exec (.selectionWindow w reading) s = .next t → SummaryShows t) ∧
  (∀ (p : Pins) (s t : State), exec (.powerOn p) s = .next t → SummaryShows t) ∧
  (∀ (p : Pins) (s t : State), s.resetHeld = true → exec (.pinResetEnd p) s = .next t → SummaryShows t) ∧
  (∀ r : Reply, r.payload.length ≤ 256 →
    let h := replyHeader r
    replyWords r = h :: (r.payload ++ [checkWord (h :: r.payload)]) ∧
    bitsOf h 31 24 = r.kind.toNat ∧
    bitsOf h 23 16 = (match r.code with
      | .ok => 0 | .reset => 1 | .badFrame => 2 | .badCheck => 3 | .unknown => 4 | .badChan => 5
      | .badVal => 6 | .busy => 7 | .noSpace => 8 | .notFound => 9 | .exists => 10 | .inUse => 11
      | .notReady => 12 | .sealed => 13 | .full => 14 | .locked => 15 | .shut => 16) ∧
    flagOf h 15 = r.summary.ev ∧ flagOf h 14 = r.summary.evLost ∧ flagOf h 13 = r.summary.tWarn ∧
    flagOf h 12 = r.summary.tLock ∧ flagOf h 11 = r.summary.der ∧ flagOf h 10 = r.summary.shut ∧
    flagOf h 9 = false ∧ bitsOf h 8 0 = r.payload.length) ∧
  (∀ ws : List Word,
    (checkWord ws).extractLsb' 16 16 = 0 ∧
    (checkWord ws).extractLsb' 0 16 =
      (ws.flatMap (fun w => (List.range 32).map (fun i => w.getLsbD (31 - i)))).foldl
        (fun (reg : BitVec 16) b => if (reg.getLsbD 15 != b) = true then (reg <<< 1) ^^^ 0x1021#16 else reg <<< 1)
        0xFFFF#16) ∧
  ∀ c : CarriedOut,
    let all := (replyWords c.reply).flatMap (fun w => (List.range 32).map (fun i => w.getLsbD (31 - i)))
    c.sdoBits.length = c.bits ∧ ∀ i, i < c.bits → c.sdoBits[i]? = some (all.getD i false)

/-- Every step record in range is read back from the seven words that carry it. The sample count of sample words
is 2w − HALF, and sample i stands in word i / 2, upper half first. -/
def Obligations.RecordsAndSamplesCoded : Prop :=
  (∀ r : StepRecord, r.inRange = true → (recordWords r).length = 7 ∧ readRecord (recordWords r) = r) ∧
  ∀ (half : Bool) (ws : List Word),
    (samplesOf half ws).length = 2 * ws.length - half.toNat ∧
    ∀ i, i < (samplesOf half ws).length →
      (samplesOf half ws)[i]? =
        some (if i % 2 = 0 then (ws.getD (i / 2) 0).extractLsb' 16 16
          else (ws.getD (i / 2) 0).extractLsb' 0 16)

/-- First fit in ascending address order, what it leaves of the list, and the refusal when nothing fits. -/
def Obligations.FirstFitAllocation : Prop :=
  (∀ (l : List Region) (a : Nat), allocate l a = none ↔ ∀ r ∈ l, r.len < a) ∧
  (∀ (l : List Region) (a b : Nat) (l' : List Region), allocate l a = some (b, l') ↔
    ∃ pre r post, l = pre ++ r :: post ∧ (∀ q ∈ pre, q.len < a) ∧ a ≤ r.len ∧ b = r.base ∧
      l' = pre ++ (if r.len = a then post else ⟨r.base + a, r.len - a⟩ :: post)) ∧
  ∀ (m : Msg) (s : State), Taken .segDefine m s → m.payload.length = 1 →
    1 ≤ bitsOf (msgWord m 0) 18 0 → bitsOf (msgWord m 0) 18 0 ≤ 262144 →
    findSeg s.mem.segs (bitsOf (msgWord m 0) 31 24) = none →
    (∀ r ∈ s.mem.free, r.len < allocation (bitsOf (msgWord m 0) 18 0)) →
    exec (.segDefine m) s = .next (answered .segDefine m .noSpace [] s s)

/-- The four merge cases of a release. -/
def Obligations.ReleaseMerges : Prop :=
  ∀ (pre post : List Region) (base a : Nat), 0 < a →
    (∀ r ∈ pre, r.base + r.len < base) → (∀ r ∈ post, base + a < r.base) →
    release base a (pre ++ post) = pre ++ ⟨base, a⟩ :: post ∧
    (∀ left : Region, left.base + left.len = base →
      release base a (pre ++ left :: post) = pre ++ ⟨left.base, left.len + a⟩ :: post) ∧
    (∀ right : Region, right.base = base + a →
      release base a (pre ++ right :: post) = pre ++ ⟨base, a + right.len⟩ :: post) ∧
    ∀ left right : Region, left.base + left.len = base → right.base = base + a →
      release base a (pre ++ left :: right :: post) =
        pre ++ ⟨left.base, left.len + a + right.len⟩ :: post

/-- SEG-DEFINE: the checks in order and the whole effect. -/
def Obligations.SegDefineChecksAndEffect : Prop :=
  (∀ l, allocation l % 16 = 0 ∧ max l 16 ≤ allocation l ∧ allocation l < max l 16 + 16) ∧
  ∀ (m : Msg) (s : State), Taken .segDefine m s → m.payload.length = 1 →
    let id := bitsOf (msgWord m 0) 31 24
    let l := bitsOf (msgWord m 0) 18 0
    (l < 1 ∨ 262144 < l → exec (.segDefine m) s = .next (answered .segDefine m .badVal [] s s)) ∧
    (1 ≤ l → l ≤ 262144 →
      ((findSeg s.mem.segs id).isSome →
        exec (.segDefine m) s = .next (answered .segDefine m .exists [] s s)) ∧
      (findSeg s.mem.segs id = none →
        (allocate s.mem.free (allocation l) = none →
          exec (.segDefine m) s = .next (answered .segDefine m .noSpace [] s s)) ∧
        ∀ base free, allocate s.mem.free (allocation l) = some (base, free) →
          exec (.segDefine m) s = .next
            (answered .segDefine m .ok [put 0 base, put 0 (allocation l)] s
              (s.setMem { s.mem with
                segs := insertSeg
                  { id := id, state := .clearing, base := base, len := l, play := max l 16,
                    alloc := allocation l, padded := decide (l < 16), cleared := 0, refs := 0 } s.mem.segs
                free := free
                clearList := s.mem.clearList ++ [id] }))))

/-- SEG-WRITE: the checks in order, and which words of the store it writes. -/
def Obligations.SegWriteStoresSamples : Prop :=
  ∀ (m : Msg) (s : State), Taken .segWrite m s → m.payload.length ≠ 0 →
    let id := bitsOf (msgWord m 0) 31 24
    let off := bitsOf (msgWord m 0) 17 0
    let xs := samplesOf m.half (m.payload.drop 1)
    (xs.length < 1 ∨ 510 < xs.length →
      exec (.segWrite m) s = .next (answered .segWrite m .badVal [] s s)) ∧
    (1 ≤ xs.length → xs.length ≤ 510 →
      (findSeg s.mem.segs id = none →
        exec (.segWrite m) s = .next (answered .segWrite m .notFound [] s s)) ∧
      ∀ g, findSeg s.mem.segs id = some g →
        (g.len < off + xs.length →
          exec (.segWrite m) s = .next (answered .segWrite m .badVal [] s s)) ∧
        (off + xs.length ≤ g.len →
          (g.state = .clearing →
            exec (.segWrite m) s = .next (answered .segWrite m .busy [] s s)) ∧
          (g.state = .sealed →
            exec (.segWrite m) s = .next (answered .segWrite m .sealed [] s s)) ∧
          (g.state = .opened → StoreOk s →
            ∃ store, exec (.segWrite m) s =
                .next (answered .segWrite m .ok [] s (s.setMem { s.mem with store := store })) ∧
              Memory.wf store = true ∧
              ∀ a, Memory.read store a =
                if g.base + off ≤ a ∧ a < g.base + off + xs.length then xs.getD (a - (g.base + off)) 0
                else Memory.read s.mem.store a)))

/-- SEG-SEAL: the checks, the padding, and the new state. -/
def Obligations.SegSealPadsAndSeals : Prop :=
  ∀ (m : Msg) (s : State), Taken .segSeal m s → m.payload.length = 1 →
    let id := bitsOf (msgWord m 0) 31 24
    (findSeg s.mem.segs id = none →
      exec (.segSeal m) s = .next (answered .segSeal m .notFound [] s s)) ∧
    ∀ g, findSeg s.mem.segs id = some g →
      (g.state = .clearing → exec (.segSeal m) s = .next (answered .segSeal m .busy [] s s)) ∧
      (g.state = .sealed → exec (.segSeal m) s = .next (answered .segSeal m .sealed [] s s)) ∧
      (g.state = .opened → StoreOk s →
        ∃ store, exec (.segSeal m) s =
            .next (answered .segSeal m .ok [] s (s.setMem { s.mem with
              store := store
              segs := updateSeg s.mem.segs id (fun h => { h with state := .sealed }) })) ∧
          Memory.wf store = true ∧
          ∀ a, Memory.read store a =
            if g.padded = true ∧ g.base + g.len ≤ a ∧ a < g.base + 16 then
              Memory.read s.mem.store (g.base + g.len - 1)
            else Memory.read s.mem.store a)

/-- SEG-DELETE in each state of its segment, and the completion of a clear. That the freed words keep their
samples in the store is the model's choice (log entry 9): a free word has no defined content (R1). -/
def Obligations.SegDeleteAndClearDone : Prop :=
  (∀ (m : Msg) (s : State), Taken .segDelete m s → m.payload.length = 1 →
    let id := bitsOf (msgWord m 0) 31 24
    (findSeg s.mem.segs id = none →
      exec (.segDelete m) s = .next (answered .segDelete m .notFound [] s s)) ∧
    ∀ g, findSeg s.mem.segs id = some g →
      (0 < g.refs → exec (.segDelete m) s = .next (answered .segDelete m .inUse [] s s)) ∧
      (g.refs = 0 → exec (.segDelete m) s = .next
        (answered .segDelete m .ok [] s (s.setMem { s.mem with
          segs := s.mem.segs.filter (fun h => h.id != id)
          free := release g.base g.alloc s.mem.free
          clearList := s.mem.clearList.filter (fun i => i != id) })))) ∧
  ∀ (s : State) (id : Nat) (rest : List Nat) (g : Segment), Between s →
    s.mem.clearList = id :: rest → findSeg s.mem.segs id = some g → g.state = .clearing → StoreOk s →
    ∃ store, exec .segClearDone s = .next
        (enterEvent .segCleared none none (some (BitVec.ofNat 32 id)) (s.setMem { s.mem with
          store := store
          segs := updateSeg s.mem.segs id (fun h => { h with state := .opened, cleared := h.alloc })
          clearList := rest })) ∧
      Memory.wf store = true ∧
      ∀ a, Memory.read store a =
        if g.base ≤ a ∧ a < g.base + g.alloc then 0 else Memory.read s.mem.store a

/-- The two queries, and the layout of the six words of a segment record. How far the clear at the head has
come is a free value (log entry 10). -/
def Obligations.SegmentQueries : Prop :=
  (∀ g : Segment, g.id ≤ 255 → g.refs ≤ 256 → g.base < 262144 → g.len ≤ 262144 → g.play ≤ 262144 →
    g.alloc ≤ 262144 → g.cleared ≤ 262144 →
    ∃ w0 w1 w2 w3 w4 w5 : Word, segmentWords g = [w0, w1, w2, w3, w4, w5] ∧
      bitsOf w0 31 24 = g.id ∧ bitsOf w0 23 22 = 0 ∧
      bitsOf w0 21 20 = (match g.state with | .clearing => 0 | .opened => 1 | .sealed => 2) ∧
      flagOf w0 19 = g.padded ∧ bitsOf w0 18 9 = 0 ∧ bitsOf w0 8 0 = g.refs ∧
      w1.toNat = g.base ∧ w2.toNat = g.len ∧ w3.toNat = g.play ∧ w4.toNat = g.alloc ∧
      w5.toNat = g.cleared) ∧
  (∀ (m : Msg) (s : State), Taken .segQuery m s → m.payload.length = 1 →
    let id := bitsOf (msgWord m 0) 31 24
    (findSeg s.mem.segs id = none →
      exec (.segQuery m) s = .next (answered .segQuery m .notFound [] s s)) ∧
    ∀ g, findSeg s.mem.segs id = some g →
      (g.state ≠ .clearing ∨ s.mem.clearList.head? ≠ some id ∨ g.alloc ≤ g.cleared →
        exec (.segQuery m) s = .next (answered .segQuery m .ok (segmentWords g) s s)) ∧
      (g.state = .clearing → s.mem.clearList.head? = some id → g.cleared < g.alloc → StoreOk s →
        ∃ c store, g.cleared ≤ c ∧ c < g.alloc ∧
          exec (.segQuery m) s = .next
            (answered .segQuery m .ok (segmentWords { g with cleared := c }) s
              (s.setMem { s.mem with
                store := store
                segs := updateSeg s.mem.segs id (fun h => { h with cleared := c }) }).drawFree) ∧
          Memory.wf store = true ∧
          ∀ a, Memory.read store a =
            if g.base ≤ a ∧ a < g.base + c then 0 else Memory.read s.mem.store a)) ∧
  ∀ (m : Msg) (s : State), Taken .memQuery m s → m.payload.length = 1 →
    (256 < bitsOf (msgWord m 0) 8 0 →
      exec (.memQuery m) s = .next (answered .memQuery m .badVal [] s s)) ∧
    (bitsOf (msgWord m 0) 8 0 ≤ 256 →
      exec (.memQuery m) s = .next
        (answered .memQuery m .ok
          ((put 23 s.mem.free.length ||| put 0 (s.mem.free.map Region.len).sum) ::
            ((s.mem.free.drop (bitsOf (msgWord m 0) 8 0)).take 255).map
              (fun r => put 16 (r.base / 16) ||| put 0 (r.len / 16))) s s))

/-- LIST-APPEND and LIST-REPLACE: the checks in order and the whole effect. -/
def Obligations.ListAppendAndReplace : Prop :=
  (∀ (m : Msg) (s : State), Taken .listAppend m s → m.payload.length = 7 →
    let n := chOf m.channel
    let r := readRecord m.payload
    let c := s.ch n
    (r.inRange = false → exec (.listAppend m) s = .next (answered .listAppend m .badVal [] s s)) ∧
    (r.inRange = true →
      (∀ id g, r.source = .memory id → findSeg s.mem.segs id = some g → g.state ≠ .sealed →
        exec (.listAppend m) s = .next (answered .listAppend m .notReady [] s s)) ∧
      ((∀ id g, r.source = .memory id → findSeg s.mem.segs id = some g → g.state = .sealed) →
        (64 ≤ c.list.length →
          exec (.listAppend m) s = .next (answered .listAppend m .full [] s s)) ∧
        (c.list.length < 64 →
          (∀ id, r.source = .memory id → findSeg s.mem.segs id = none →
            exec (.listAppend m) s = .next (answered .listAppend m .notFound [] s s)) ∧
          ((∀ id, r.source = .memory id → (findSeg s.mem.segs id).isSome = true) →
            exec (.listAppend m) s = .next
              (answered .listAppend m .ok [put 0 c.list.length] s
                ((s.setMem (refIn s.mem r)).setCh n { c with
                  list := c.list ++
                    [⟨r, match r.jump with | some j => j.count | none => 0⟩] }))))))) ∧
  ∀ (m : Msg) (s : State), Taken .listReplace m s → m.payload.length = 8 →
    let n := chOf m.channel
    let idx := bitsOf (msgWord m 0) 7 0
    let r := readRecord (m.payload.drop 1)
    let c := s.ch n
    (c.list.length ≤ idx ∨ r.inRange = false →
      exec (.listReplace m) s = .next (answered .listReplace m .badVal [] s s)) ∧
    ∀ old, c.list[idx]? = some old → r.inRange = true →
      (c.playback = .armed ∨ c.playback = .running →
        exec (.listReplace m) s = .next (answered .listReplace m .busy [] s s)) ∧
      (c.playback = .idle ∨ c.playback = .done →
        (∀ id g, r.source = .memory id → findSeg s.mem.segs id = some g → g.state ≠ .sealed →
          exec (.listReplace m) s = .next (answered .listReplace m .notReady [] s s)) ∧
        (∀ id, r.source = .memory id → findSeg s.mem.segs id = none →
          exec (.listReplace m) s = .next (answered .listReplace m .notFound [] s s)) ∧
        ((∀ id, r.source = .memory id → ∃ g, findSeg s.mem.segs id = some g ∧ g.state = .sealed) →
          exec (.listReplace m) s = .next
            (answered .listReplace m .ok [] s
              ((s.setMem (refIn (refOut s.mem old.record) r)).setCh n { c with
                list := c.list.set idx
                  ⟨r, match r.jump with | some j => j.count | none => 0⟩ }))))

/-- LIST-CLEAR and LIST-READ. -/
def Obligations.ListClearAndRead : Prop :=
  (∀ (m : Msg) (s : State), Taken .listClear m s → m.payload.length = 0 →
    let n := chOf m.channel
    let c := s.ch n
    (c.playback = .armed ∨ c.playback = .running →
      exec (.listClear m) s = .next (answered .listClear m .busy [] s s)) ∧
    (c.playback = .idle ∨ c.playback = .done →
      exec (.listClear m) s = .next
        (answered .listClear m .ok [] s
          ((s.setMem { s.mem with
              segs := s.mem.segs.map (fun g =>
                { g with refs := g.refs - c.list.countP (namesSeg g.id) }) }).setCh n
            { c with list := [], pendingCues := 0 })))) ∧
  ∀ (m : Msg) (s : State), Taken .listRead m s → m.payload.length = 1 →
    let c := s.ch (chOf m.channel)
    let idx := bitsOf (msgWord m 0) 7 0
    (c.list.length ≤ idx →
      exec (.listRead m) s = .next (answered .listRead m .badVal [] s s)) ∧
    ∀ t, c.list[idx]? = some t →
      exec (.listRead m) s = .next
        (answered .listRead m .ok
          ((put 16 c.list.length ||| put 0 t.loops) :: recordWords t.record) s s)

/-- CH-CONFIG: the ranges, the refusals and the whole effect. -/
def Obligations.ChannelConfiguration : Prop :=
  ∀ (m : Msg) (s : State), Taken .chConfig m s → m.payload.length = 4 →
    let c := s.ch (chOf m.channel)
    let lmin := signedOf (msgWord m 0) 31 16
    let lmax := signedOf (msgWord m 0) 15 0
    let park := signedOf (msgWord m 1) 31 16
    let act := bitsOf (msgWord m 1) 1 0
    let low := bitsOf (msgWord m 2) 29 16
    let high := bitsOf (msgWord m 2) 13 0
    let prime := bitsOf (msgWord m 3) 13 0
    let good := lmin ≤ lmax ∧ lmin ≤ park ∧ park ≤ lmax ∧ act ≤ 1 ∧ low ≤ 8191 ∧ 1 ≤ high ∧
      high ≤ 8192 ∧ low < high ∧ 1 ≤ prime ∧ prime ≤ 8192
    (¬ good → exec (.chConfig m) s = .next (answered .chConfig m .badVal [] s s)) ∧
    (good →
      (c.playback = .armed ∨ c.playback = .running →
        exec (.chConfig m) s = .next (answered .chConfig m .busy [] s s)) ∧
      (c.playback = .idle ∨ c.playback = .done →
        exec (.chConfig m) s = .next
          (answered .chConfig m .ok [] s (s.setCh (chOf m.channel) { c with
            settings := ⟨lmin, lmax, park, if act = 1 then .hold else .park, low, high, prime⟩
            hold := if c.playback = .done ∧ act = 1 then clamp c.hold lmin lmax else park }))))

/-- CH-MASK and CH-STATUS: the whole effect of each, and the layout of the thirteen words of a status. -/
def Obligations.CueMaskAndStatus : Prop :=
  (∀ (m : Msg) (s : State), Taken .chMask m s → m.payload.length = 2 →
    let c := s.ch (chOf m.channel)
    ∃ mask pend, exec (.chMask m) s = .next
        (answered .chMask m .ok [] s
          (s.setCh (chOf m.channel) { c with mask := mask, pendingCues := pend })) ∧
      ∀ cue, cueIn mask cue =
          (decide (1 ≤ cue ∧ cue ≤ 63) &&
            (if cue < 32 then flagOf (msgWord m 1) cue else flagOf (msgWord m 0) (cue - 32))) ∧
        cueIn pend cue = (cueIn c.pendingCues cue && cueIn mask cue)) ∧
  (∀ (c : Channel) (p : Protection), c.list.length ≤ 64 → c.run.step < 64 → c.run.i < 262144 →
    c.run.f < 65536 → c.run.repeatsLeft < 65536 → c.run.markerLeft < 65536 →
    (-32768) ≤ c.hold → c.hold ≤ 32767 → c.run.consumed < 2 ^ 24 → c.stream.fifo.length ≤ 8192 →
    c.stream.debt < 2 ^ 24 → (∀ q, c.run.start = .cue q → q ≤ 63) →
    ∃ w0 w1 w2 w3 w4 w5 w6 w7 w8 w9 w10 w11 w12 : Word,
      statusWords c p = [w0, w1, w2, w3, w4, w5, w6, w7, w8, w9, w10, w11, w12] ∧
      bitsOf w0 31 28 =
        (match c.playback with | .idle => 0 | .armed => 1 | .running => 2 | .done => 3) ∧
      bitsOf w0 27 24 = (if c.playback = .running then
        (match c.run.phase with | .waiting => 1 | .priming => 2 | .playing => 3) else 0) ∧
      bitsOf w0 23 20 = (match p.state with | .normal => 0 | .derated => 1 | .shut => 2) ∧
      bitsOf w0 19 16 = (match p.cause with | .none => 0 | .fault => 1 | .temp => 2) ∧
      bitsOf w0 15 10 = 0 ∧ flagOf w0 9 = c.clip ∧ flagOf w0 8 = c.limit ∧ flagOf w0 7 = c.run.leave ∧
      bitsOf w0 6 0 = c.list.length ∧
      (match c.run.start with
        | .none => w1 = 0 ∧ w2 = 0
        | .cue q => bitsOf w1 31 30 = 1 ∧ bitsOf w1 29 24 = q ∧ bitsOf w1 23 0 = 0 ∧ w2 = 0
        | .time T => bitsOf w1 31 30 = 2 ∧ bitsOf w1 29 16 = 0 ∧
          bitsOf w1 15 0 * 2 ^ 32 + w2.toNat = T.toNat) ∧
      bitsOf w3 31 24 = c.run.step ∧ bitsOf w3 23 0 = c.run.i ∧
      bitsOf w4 31 16 = c.run.f ∧ bitsOf w4 15 0 = c.run.repeatsLeft ∧
      bitsOf w5 31 16 = c.run.markerLeft ∧ signedOf w5 15 0 = c.hold ∧
      w6.toNat = c.run.consumed ∧ w7.toNat = c.stream.fifo.length ∧ w8.toNat = c.stream.debt ∧
      ∀ q, q < 32 → flagOf w10 q = cueIn c.pendingCues q ∧ flagOf w9 q = cueIn c.pendingCues (32 + q) ∧
        flagOf w12 q = cueIn c.mask q ∧ flagOf w11 q = cueIn c.mask (32 + q)) ∧
  ∀ (m : Msg) (s : State), Taken .chStatus m s → m.payload.length = 0 →
    let c := s.ch (chOf m.channel)
    exec (.chStatus m) s = .next
      (answered .chStatus m .ok (statusWords c (s.pr (chOf m.channel))) s
        (s.setCh (chOf m.channel) { c with clip := false, limit := false }))

/-- CH-START without a start time: the checks in order and the whole effect. -/
def Obligations.StartChecksAndArming : Prop :=
  ∀ (m : Msg) (s : State), Taken .chStart m s → m.payload.length = 3 →
    let w := msgWord m 0
    let named := fun n : Ch => flagOf w (chNum n)
    let cue := bitsOf w 15 8
    let bad := (∀ n, named n = false) ∨
      (flagOf w 16 = true ∧ (cue < 1 ∨ 63 < cue ∨ flagOf w 17 = true))
    (bad → exec (.chStart m) s = .next (answered .chStart m .badVal [] s s)) ∧
    (¬ bad →
      ((∃ n, named n = true ∧ (s.pr n).state = .shut) →
        exec (.chStart m) s = .next (answered .chStart m .shut [] s s)) ∧
      ((∀ n, named n = true → (s.pr n).state ≠ .shut) →
        ((∃ n, named n = true ∧ ((s.ch n).playback = .armed ∨ (s.ch n).playback = .running)) →
          exec (.chStart m) s = .next (answered .chStart m .busy [] s s)) ∧
        ((∀ n, named n = true → (s.ch n).playback = .idle ∨ (s.ch n).playback = .done) →
          ((∃ n, named n = true ∧ (s.ch n).list = []) →
            exec (.chStart m) s = .next (answered .chStart m .notReady [] s s)) ∧
          ((∀ n, named n = true → (s.ch n).list ≠ []) → flagOf w 17 = false →
            ∃ q : Quad Channel, exec (.chStart m) s =
                .next (answered .chStart m .ok [] s { s with chans := q }) ∧
              ∀ n, q.get n = if named n = true then
                  { s.ch n with
                    playback := .armed
                    list := (s.ch n).list.map (fun t =>
                      { t with loops := match t.record.jump with | some j => j.count | none => 0 })
                    pendingCues := 0
                    run := { phase := (s.ch n).run.phase
                             start := if flagOf w 16 = true then .cue cue else .none
                             startAt := if flagOf w 16 = true then none
                               else some (s.dev.counter + 1) } }
                else s.ch n))))

/-- CH-START with a start time: on time or late, by the difference of the counter values. That a late start
keeps its start condition beside its start boundary is the model's inference (log entry 12). -/
def Obligations.StartTimes : Prop :=
  ∀ (m : Msg) (s : State), Taken .chStart m s → m.payload.length = 3 →
    let w := msgWord m 0
    let named := fun n : Ch => flagOf w (chNum n)
    let T : Counter := (msgWord m 1).extractLsb' 0 16 ++ msgWord m 2
    let N := s.dev.counter
    (∃ n, named n = true) → flagOf w 16 = false → flagOf w 17 = true →
    (∀ n, named n = true → (s.pr n).state ≠ .shut ∧
      ((s.ch n).playback = .idle ∨ (s.ch n).playback = .done) ∧ (s.ch n).list ≠ []) →
    ∃ (q : Quad Channel) (at_ : Counter),
      (∀ n, q.get n = if named n = true then
          { s.ch n with
            playback := .armed
            list := (s.ch n).list.map (fun t =>
              { t with loops := match t.record.jump with | some j => j.count | none => 0 })
            pendingCues := 0
            run := { phase := (s.ch n).run.phase, start := .time T, startAt := some at_ } }
        else s.ch n) ∧
      (1 ≤ (T - N).toNat ∧ (T - N).toNat < 2 ^ 47 → at_ = T ∧
        exec (.chStart m) s = .next (answered .chStart m .ok [] s { s with chans := q })) ∧
      ((T - N).toNat = 0 ∨ 2 ^ 47 ≤ (T - N).toNat → at_ = N + 1 ∧
        exec (.chStart m) s = .next (answered .chStart m .ok [] s
          (enterEvent .startLate none none (some ((N + 1 - T).setWidth 32)) { s with chans := q })))

/-- CH-STOP and STREAM-FLUSH: the whole effect of each. -/
def Obligations.StopAndFlush : Prop :=
  (∀ (m : Msg) (s : State), Taken .chStop m s → m.payload.length = 1 →
    let w := msgWord m 0
    ((∀ n, flagOf w (chNum n) = false) →
      exec (.chStop m) s = .next (answered .chStop m .badVal [] s s)) ∧
    ((∃ n, flagOf w (chNum n) = true) →
      ∃ q : Quad Channel, exec (.chStop m) s =
          .next (answered .chStop m .ok [] s { s with chans := q }) ∧
        ∀ n, q.get n = if flagOf w (chNum n) = true then
            { s.ch n with
              playback := .idle
              run := { (s.ch n).run with start := .none, startAt := none, next := none, owed := .nothing }
              pendingCues := 0
              hold := (s.ch n).settings.park
              stream := if flagOf w 8 = true then ⟨[], 0⟩ else (s.ch n).stream }
          else s.ch n)) ∧
  ∀ (m : Msg) (s : State), Taken .streamFlush m s → m.payload.length = 0 →
    let c := s.ch (chOf m.channel)
    exec (.streamFlush m) s = .next (answered .streamFlush m .ok [] s
      (s.setCh (chOf m.channel) { c with stream := ⟨[], 0⟩ }))

/-- STREAM-DATA: the checks and the whole effect. -/
def Obligations.StreamDataTaken : Prop :=
  ∀ (m : Msg) (s : State), Taken .streamData m s →
    let n := chOf m.channel
    let c := s.ch n
    let xs := samplesOf m.half m.payload
    let discard := min xs.length c.stream.debt
    let level := c.stream.fifo.length + (xs.length - discard)
    let t := s.setCh n { c with
      stream := ⟨c.stream.fifo ++ xs.drop discard, c.stream.debt - discard⟩ }
    let reply := [put 16 discard ||| put 0 level, put 0 (c.stream.debt - discard)]
    (xs.length < 1 ∨ 510 < xs.length →
      exec (.streamData m) s = .next (answered .streamData m .badVal [] s s)) ∧
    (1 ≤ xs.length → xs.length ≤ 510 →
      (8192 < level →
        exec (.streamData m) s = .next
          (answered .streamData m .full [put 0 c.stream.fifo.length, put 0 c.stream.debt] s s)) ∧
      (level ≤ 8192 →
        (c.stream.fifo.length < c.settings.highMark ∧ c.settings.highMark ≤ level →
          exec (.streamData m) s = .next (answered .streamData m .ok reply s
            (enterEvent .streamHigh (some n) none (some (BitVec.ofNat 32 level)) t))) ∧
        (c.settings.highMark ≤ c.stream.fifo.length ∨ level < c.settings.highMark →
          exec (.streamData m) s = .next (answered .streamData m .ok reply s t))))

/-- CUE-SEND: the checks in order and the whole effect. -/
def Obligations.CueSendPlacesTheEntry : Prop :=
  ∀ (m : Msg) (s : State), Taken .cueSend m s → m.payload.length = 1 →
    let cue := bitsOf (msgWord m 0) 7 0
    let q := s.cue.sendQ
    let merges := cue = 0 ∧ ∃ e ∈ q, e.cue = 0
    let added := fun q' : List SendEntry =>
      exec (.cueSend m) s = .next
        (answered .cueSend m .ok [put 0 (q.length + 1) ||| putFlag 8 true] s
          (s.setCue { s.cue with sendQ := q' }))
    (63 < cue → exec (.cueSend m) s = .next (answered .cueSend m .badVal [] s s)) ∧
    (cue ≤ 63 →
      (merges → exec (.cueSend m) s = .next (answered .cueSend m .ok [put 0 q.length] s s)) ∧
      (¬ merges →
        (8 ≤ q.length → exec (.cueSend m) s = .next (answered .cueSend m .full [] s s)) ∧
        (q.length < 8 →
          (cue ≠ 0 → added (q ++ [⟨cue, .cueSend, 0⟩])) ∧
          (cue = 0 →
            (s.cue.inFlight = none → added (⟨0, .cueSend, 0⟩ :: q)) ∧
            ∀ h rest, s.cue.inFlight ≠ none → q = h :: rest →
              added (h :: ⟨0, .cueSend, 0⟩ :: rest)))))

/-- The triggers: configuration, pin changes, qualified edges. That TRIG_EDGE_QUALIFIED does nothing while pin
and qualified level agree is the model's choice (log entry 3). -/
def Obligations.TriggersPushTheirCue : Prop :=
  (∀ (m : Msg) (s : State), Taken .trigConfig m s → m.payload.length = 1 →
    let w := msgWord m 0
    (1 < bitsOf w 25 24 ∨ 63 < bitsOf w 7 0 →
      exec (.trigConfig m) s = .next (answered .trigConfig m .badVal [] s s)) ∧
    (bitsOf w 7 0 ≤ 63 → ∀ t, bitsOf w 25 24 = (match t with | .trig0 => 0 | .trig1 => 1) →
      exec (.trigConfig m) s = .next (answered .trigConfig m .ok [] s
        (s.setCue (setTrig s.cue t { trigOf s.cue t with
          enable := flagOf w 16
          edge := if flagOf w 8 = true then .falling else .rising
          cue := bitsOf w 7 0 }))))) ∧
  (∀ (t : TrigPin) (level : Bool) (s : State), Between s →
    exec (.trigPinChange t level) s =
      .next (s.setCue (setTrig s.cue t { trigOf s.cue t with pin := level }))) ∧
  ∀ (t : TrigPin) (s : State), Between s →
    let g := trigOf s.cue t
    let u := s.setCue (setTrig s.cue t { g with qualified := g.pin })
    let pushes := g.enable = true ∧ (g.pin = true ↔ g.edge = .rising)
    (g.pin = g.qualified → exec (.trigEdgeQualified t) s = .next s) ∧
    (g.pin ≠ g.qualified →
      (¬ pushes → exec (.trigEdgeQualified t) s = .next u) ∧
      (pushes →
        (g.cue = 0 ∧ (∃ e ∈ s.cue.sendQ, e.cue = 0) → exec (.trigEdgeQualified t) s = .next u) ∧
        (¬ (g.cue = 0 ∧ ∃ e ∈ s.cue.sendQ, e.cue = 0) →
          (8 ≤ s.cue.sendQ.length → exec (.trigEdgeQualified t) s = .next
            (enterEvent .cueDropped none none (some (cueSourceValue g.cue (.trigger t))) u)) ∧
          (s.cue.sendQ.length < 8 → exec (.trigEdgeQualified t) s = .next
            (u.setCue { u.cue with
              sendQ := placeEntry ⟨g.cue, .trigger t, 0⟩ s.cue.inFlight.isSome s.cue.sendQ })))))

/-- The transmitter's rows: start, success, loss. That FRAME_START itself brings the part's own receiver inside a
frame is the model's inference (log entry 13); that a row acts after its moves, and tells a stop or a loss that
these have brought, is its choice (log entry 14), and so is that a row told where its condition does not hold
does nothing (log entry 3). -/
def Obligations.TransmitterMoves : Prop :=
  ∀ (s : State), Between s →
    let c := s.cue
    (c.inFlight = none → lineIdle c = true →
      (c.sendQ ≠ [] → c.idleEnough = true →
        exec (.frameStart []) s = .next (s.setCue { c with
          inFlight := some ⟨s.dev.half, .startHold⟩
          dt := ⟨true, false⟩
          receiver := .inside [] true
          idleEnough := false
          stuckCk := false })) ∧
      exec (.frameStart [.pull .cuedt]) s = .next (s.setCue { c with
        dt := ⟨false, true⟩
        receiver := .inside [] true
        idleEnough := false
        stuckCk := false })) ∧
    (c.sendQ = [] ∨ c.inFlight ≠ none ∨ c.idleEnough = false → exec (.frameStart []) s = .next s) ∧
    (∀ x, c.inFlight = some ⟨x, .made⟩ →
      exec (.frameSent []) s = .next (s.setCue { c with inFlight := none, sendQ := c.sendQ.tail })) ∧
    ((∀ x, c.inFlight ≠ some ⟨x, .made⟩) → exec (.frameSent []) s = .next s) ∧
    ((∀ x, c.inFlight ≠ some ⟨x, .lost⟩) → exec (.arbitrationLost []) s = .next s) ∧
    ∀ x h rest, c.inFlight = some ⟨x, .lost⟩ → c.sendQ = h :: rest →
      (4 ≤ h.attempts + 1 → exec (.arbitrationLost []) s = .next
        (enterEvent .cueLost
          (match h.source with | .stepEmit n _ => some n | _ => none)
          (match h.source with | .stepEmit _ k => some k | _ => none)
          (some (cueSourceValue h.cue h.source))
          (s.setCue { c with inFlight := none, sendQ := rest }))) ∧
      (h.attempts + 1 < 4 →
        let h' : SendEntry := { h with attempts := h.attempts + 1 }
        (∀ e rest', rest = e :: rest' → e.cue = 0 → exec (.arbitrationLost []) s = .next
          (s.setCue { c with inFlight := none, sendQ := e :: h' :: rest' })) ∧
        ((∀ e, rest.head? = some e → e.cue ≠ 0) → exec (.arbitrationLost []) s = .next
          (s.setCue { c with inFlight := none, sendQ := h' :: rest })))

/-- The part's own frame on the two wires: the rows act after their moves; an uncontested frame, H by H; and what
the sender makes of a stretched clock, an early fall, a low it does not send, a foreign start and the test of its
stop. That a row may be told with moves before its moment is the model's choice (log entry 14). -/
def Obligations.FrameOnTheWires : Prop :=
  (∀ (moves : List LineMove) (l : CueLine) (onB : Bool) (s : State), Between s →
    let t := s.setCue (lineMoves moves s.cue)
    exec (.frameStart moves) s = exec (.frameStart []) t ∧
    exec (.frameSent moves) s = exec (.frameSent []) t ∧
    exec (.arbitrationLost moves) s = exec (.arbitrationLost []) t ∧
    exec (.frameReceived moves onB) s = exec (.frameReceived [] onB) t ∧
    exec (.stalledFrame moves) s = exec (.stalledFrame []) t ∧
    exec (.stuckLine l moves) s = exec (.stuckLine l []) t ∧
    exec (.startCondition moves) s = exec (.startCondition []) t ∧
    exec (.stuckLineReleased l moves) s = exec (.stuckLineReleased l []) t) ∧
  (∀ (m : LineMove) (c : CueController),
    (lineMove m c).sendQ = c.sendQ ∧ (lineMove m c).delivery = c.delivery ∧
    (lineMove m c).trig0 = c.trig0 ∧ (lineMove m c).trig1 = c.trig1) ∧
  (∀ (c : CueController) (x : HalfPeriod) (h : SendEntry) (rest : List SendEntry),
    c.inFlight = some ⟨x, .startHold⟩ → c.sendQ = h :: rest → c.ck = ⟨false, false⟩ →
    c.dt = ⟨true, false⟩ → c.receiver = .inside [] true →
    (∀ k, k ≤ 16 →
      (lineMoves (List.replicate k .holdEnds) c).ck = ⟨decide (k % 2 = 1), false⟩ ∧
      (lineMoves (List.replicate k .holdEnds) c).dt =
        ⟨decide (k = 0 ∨ 15 ≤ k) || !(frameBits h.cue).getD ((k - 1) / 2) false, false⟩ ∧
      (lineMoves (List.replicate k .holdEnds) c).inFlight ≠ none) ∧
    lineMoves (List.replicate 17 .holdEnds) c = { c with
      inFlight := some ⟨x, .made⟩
      dt := ⟨false, false⟩
      receiver := .ended (frameBits h.cue)
      idleEnough := false
      stuckCk := false
      stuckDt := false }) ∧
  ∀ (c : CueController) (x : HalfPeriod) (j : Nat) (bits : List Bool), rowDue c = false →
    let drives := fun k : Nat =>
      match c.sendQ with
      | [] => true
      | h :: _ => !(frameBits h.cue).getD k false
    let comes := fun (m : LineMove) (p : SendPhase) (r : Receiver) (ck dt : Wire) =>
      (lineMove m c).inFlight = some ⟨x, p⟩ ∧ (lineMove m c).receiver = r ∧
        (lineMove m c).ck = ck ∧ (lineMove m c).dt = dt
    (c.inFlight = some ⟨x, .startHold⟩ → c.ck = ⟨false, false⟩ → c.dt.own = true →
      c.receiver = .inside [] true →
      comes .holdEnds (.low 0) (.inside [] false) ⟨true, false⟩ ⟨drives 0, c.dt.others⟩ ∧
      comes (.pull .cueck) (.low 0) (.inside [] false) ⟨true, true⟩ ⟨drives 0, c.dt.others⟩) ∧
    (c.receiver = .inside bits false → c.dt.own = drives j →
      let lostHere := !drives j && c.dt.others
      (c.inFlight = some ⟨x, .low j⟩ →
        (c.ck = ⟨true, true⟩ → comes .holdEnds (.wait j) c.receiver ⟨false, true⟩ c.dt) ∧
        (c.ck = ⟨true, false⟩ →
          comes .holdEnds (if lostHere = true then .lost else .high j) c.receiver ⟨false, false⟩ c.dt)) ∧
      (c.inFlight = some ⟨x, .wait j⟩ → c.ck = ⟨false, true⟩ →
        comes .holdEnds (.wait j) c.receiver c.ck c.dt ∧
        comes (.release .cueck) (if lostHere = true then .lost else .high j) c.receiver ⟨false, false⟩
          c.dt) ∧
      (c.inFlight = some ⟨x, .high j⟩ → j < 7 → bits.length = j → c.ck = ⟨false, false⟩ →
        lostHere = false →
        let read := bits ++ [!drives j]
        comes .holdEnds (.low (j + 1)) (.inside read false) ⟨true, false⟩
          ⟨drives (j + 1), c.dt.others⟩ ∧
        comes (.pull .cueck) (.low (j + 1)) (.inside read false) ⟨true, true⟩
          ⟨drives (j + 1), c.dt.others⟩ ∧
        (drives j = false → comes (.pull .cuedt) .lost .reopened ⟨false, false⟩ ⟨false, true⟩)) ∧
      (c.inFlight = some ⟨x, .high 7⟩ → j = 7 → bits.length = 7 → c.ck = ⟨false, false⟩ →
        comes .holdEnds (if c.dt.others = true then .stopTest else .made)
          (if c.dt.others = true then .inside bits false else .ended bits) ⟨false, false⟩
          ⟨false, c.dt.others⟩ ∧
        comes (.pull .cueck) .lost (.ended (bits ++ [false])) ⟨false, true⟩ ⟨false, c.dt.others⟩)) ∧
    (c.inFlight = some ⟨x, .stopTest⟩ → c.receiver = .inside bits false → bits.length = 7 →
      c.ck = ⟨false, false⟩ → c.dt = ⟨false, true⟩ →
      comes .holdEnds .lost c.receiver ⟨false, false⟩ ⟨false, true⟩ ∧
      comes (.release .cuedt) .made (.ended bits) ⟨false, false⟩ ⟨false, false⟩ ∧
      comes (.pull .cueck) .lost (.ended (bits ++ [false])) ⟨false, true⟩ ⟨false, true⟩)

/-- The receiver: what it hears on the wires, and its rows. That START_CONDITION tells another part driving CUEDT
low, which without a condition only drives it, is the model's inference (log entry 13). That a row tells what the
moves of the line have brought, and that FRAME_RECEIVED carries the edge its stop is noted on, is its choice (log
entry 14), and so is that a row of a frame's end or a stall told where there is none does nothing (log
entry 3). -/
def Obligations.ReceiverJudgesFrames : Prop :=
  (∀ (m : LineMove) (c : CueController), c.inFlight = none →
    (c.ck.low = true → (lineMove m c).receiver = c.receiver) ∧
    (c.receiver = .outside →
      (lineMove m c).receiver = if m = .pull .cuedt ∧ c.ck.low = false ∧ c.dt.low = false
        then .inside [] true else .outside) ∧
    ∀ bits, c.ck = ⟨false, false⟩ →
      (c.receiver = .inside bits true →
        (lineMove (.pull .cueck) c).receiver = .inside bits false) ∧
      (c.receiver = .inside bits false →
        (lineMove (.pull .cueck) c).receiver =
          if bits.length < 7 then .inside (bits ++ [!c.dt.low]) false
          else .ended (bits ++ [!c.dt.low])) ∧
      ∀ b, c.receiver = .inside bits b →
        (c.dt = ⟨false, true⟩ → (lineMove (.release .cuedt) c).receiver = .ended bits) ∧
        (c.dt = ⟨false, false⟩ → (lineMove (.pull .cuedt) c).receiver = .reopened)) ∧
  ∀ (s : State) (onB : Bool), Between s →
    let c := s.cue
    (∀ bits, c.receiver = .ended bits →
      let out := s.setCue { c with receiver := .outside }
      let e : Counter := s.dev.counter + (if onB = true then 2 else 1) + BitVec.ofNat 48 s.dev.align
      (bits.length = 7 → bits.count true % 2 = 0 →
        (c.delivery.length < 16 → exec (.frameReceived [] onB) s =
          .next (s.setCue { c with
            receiver := .outside
            delivery := c.delivery ++ [⟨cueOfBits (bits.take 6), e⟩] })) ∧
        (16 ≤ c.delivery.length → exec (.frameReceived [] onB) s =
          .next (cueError (.overrun (cueOfBits (bits.take 6))) out))) ∧
      (bits.length = 7 → bits.count true % 2 = 1 →
        exec (.frameReceived [] onB) s = .next (cueError .parity out)) ∧
      (bits.length ≠ 7 → exec (.frameReceived [] onB) s = .next (cueError .framing out))) ∧
    ((∀ bits, c.receiver ≠ .ended bits) → exec (.frameReceived [] onB) s = .next s) ∧
    (c.receiver = .reopened → exec (.startCondition []) s =
      .next (cueError .framing (s.setCue { c with receiver := .inside [] true }))) ∧
    (c.inFlight = none →
      let pulled := fun r : Receiver => s.setCue { c with
        receiver := r
        dt := ⟨c.dt.own, true⟩
        idleEnough := false
        stuckCk := c.stuckCk && c.ck.low }
      (c.ck.low = false → c.dt.low = false →
        (c.receiver = .outside → exec (.startCondition []) s = .next (pulled (.inside [] true))) ∧
        ∀ bits b, c.receiver = .inside bits b →
          exec (.startCondition []) s = .next (cueError .framing (pulled (.inside [] true)))) ∧
      (c.ck.low = true ∨ c.dt.low = true → rowDue c = false →
        exec (.startCondition []) s = .next (pulled c.receiver)) ∧
      (∀ bits b, c.receiver = .inside bits b → c.ck.low = false → exec (.stalledFrame []) s =
        .next (cueError .framing (s.setCue { c with receiver := .outside })))) ∧
    ((∀ bits b, c.receiver ≠ .inside bits b) ∨ c.ck.low = true ∨ c.inFlight ≠ none →
      exec (.stalledFrame []) s = .next s)

/-- Stuck lines: one report, and what becomes of the frames, the wires and the head entry. A STUCK_LINE told while
the line's timer does not count, or with a row of the line still to be told, does nothing (log entries 3 and
14). -/
def Obligations.StuckLines : Prop :=
  ∀ (l : CueLine) (s : State), Between s →
    let c := s.cue
    exec (.stuckLineReleased l []) s = .next (s.setCue (lineMove (.release l) c)) ∧
    (c.inFlight = none → rowDue c = false → (wireOf c l).own = false →
      stuckReported (lineMove (.release l) c) l = false ∧
      wireOf (lineMove (.release l) c) l = ⟨false, false⟩ ∧
      (lineMove (.release l) c).inFlight = none ∧
      ∀ k, k ≠ l → wireOf (lineMove (.release l) c) k = wireOf c k ∧
        stuckReported (lineMove (.release l) c) k = (stuckReported c k && (wireOf c k).low)) ∧
    (stuckReported c l = true ∨ (wireOf c l).low = false ∨ rowDue c = true ∨
        (c.inFlight = none ∧ c.receiver = .outside ∧ c.sendQ = []) →
      exec (.stuckLine l []) s = .next s) ∧
    (stuckReported c l = false → (wireOf c l).low = true → rowDue c = false →
      let c' := setStuck { c with receiver := .outside } l true
      let t := cueError .stuck (s.setCue c')
      let d : CueController := { c' with
        ck := ⟨false, c.ck.others⟩
        dt := ⟨false, c.dt.others⟩
        idleEnough := c.idleEnough && !c.ck.others && !c.dt.others
        stuckCk := c'.stuckCk && c.ck.others
        stuckDt := c'.stuckDt && c.dt.others
        inFlight := none }
      (c.inFlight = none → c.receiver ≠ .outside ∨ c.sendQ ≠ [] →
        exec (.stuckLine l []) s = .next t) ∧
      (c.inFlight ≠ none → ∀ h rest, c.sendQ = h :: rest →
        (4 ≤ h.attempts + 1 → exec (.stuckLine l []) s = .next
          (enterEvent .cueLost h.source.channel h.source.step (some (cueSourceValue h.cue h.source))
            (t.setCue { d with sendQ := rest }))) ∧
        (h.attempts + 1 < 4 → exec (.stuckLine l []) s = .next
          (t.setCue { d with sendQ := yieldToCue0 ({ h with attempts := h.attempts + 1 } :: rest) }))))

/-- The receiver takes exactly the seven bits a sender sends for a cue. -/
def Obligations.CueFrameCoding : Prop :=
  (∀ (bits : List Bool) (cue : Nat), judgeFrame bits = .valid cue ↔ cue ≤ 63 ∧ bits = frameBits cue) ∧
  ∀ cue, (frameBits cue).length = 7 ∧ (frameBits cue).count true % 2 = 0 ∧
    ∀ i, i < 6 → (frameBits cue)[i]? = some (cue.testBit (5 - i))

/-- The fault inputs and both shutdowns. That FAULT_ASSERT on an asserted input, and FAULT_QUALIFIED and
ESCALATION_EXPIRY without their timer, do nothing is the model's choice (log entry 3). -/
def Obligations.FaultInputs : Prop :=
  ∀ (n : Ch) (s : State), Between s →
    let p := s.pr n
    let c := s.ch n
    let stepNow : Option Nat := if c.playback = .running then some c.run.step else none
    let q : Protection := { p with qual := .qualified }
    let first := enterEvent .overload (some n) stepNow none
      (s.setPr n { q with state := .derated, cause := .fault, escalating := true })
    let down := fun (from_ : Protection) (reason : Word) =>
      enterEvent .shutdown (some n) stepNow (some reason)
        ((s.setPr n { from_ with state := .shut, escalating := false, enable := false }).setCh n
          { c with
            playback := .idle
            run := { c.run with start := .none, startAt := none, next := none, owed := .nothing }
            pendingCues := 0
            hold := c.settings.park })
    (p.asserted = false →
      exec (.faultAssert n) s = .next (s.setPr n { p with asserted := true, qual := .running })) ∧
    (p.asserted = true → exec (.faultAssert n) s = .next s) ∧
    exec (.faultRelease n) s =
      .next (s.setPr n { p with asserted := false, qual := .stopped, escalating := false }) ∧
    (p.qual ≠ .running → exec (.faultQualified n) s = .next s) ∧
    (p.qual = .running →
      (p.state = .normal ∨ (p.state = .derated ∧ p.cause = .temp) →
        exec (.faultQualified n) s = .next first) ∧
      (p.state = .derated → p.cause ≠ .temp → exec (.faultQualified n) s = .next (down q 2#32)) ∧
      (p.state = .shut → exec (.faultQualified n) s = .next (s.setPr n q))) ∧
    (p.escalating = true ∧ p.state = .derated ∧ p.cause = .fault →
      exec (.escalationExpiry n) s = .next (down p 1#32)) ∧
    (p.escalating = false ∨ p.state ≠ .derated ∨ p.cause ≠ .fault →
      exec (.escalationExpiry n) s = .next s)

/-- CH-RESTORE: the refusal and the effect on each protection state. -/
def Obligations.RestoreReturnsToNormal : Prop :=
  ∀ (m : Msg) (s : State), Taken .chRestore m s → m.payload.length = 0 →
    let n := chOf m.channel
    let p := s.pr n
    (p.state ≠ .normal → p.asserted = true →
      exec (.chRestore m) s = .next (answered .chRestore m .busy [] s s)) ∧
    (p.state = .normal → exec (.chRestore m) s = .next (answered .chRestore m .ok [] s s)) ∧
    (p.state ≠ .normal → p.asserted = false →
      exec (.chRestore m) s = .next (answered .chRestore m .ok [] s
        (s.setPr n { p with state := .normal, cause := .none, escalating := false, enable := true })))

/-- One reading from each temperature state: every transition, its events in order, the derating of LOCK. -/
def Obligations.TemperatureTransitions : Prop :=
  ∀ (r : Int) (s : State), Between s → -40 ≤ r → r ≤ 150 →
    let goes := fun (x : TempState) (t : State) => t.setTemp ⟨x, r⟩
    let told := fun (k : EventKind) (t : State) => enterEvent k none none (some (BitVec.ofInt 32 r)) t
    let lockd := fun p : Protection =>
      if p.state = .normal then { p with state := .derated, cause := .temp } else p
    let derated := fun t : State =>
      { t with prot := ⟨lockd t.prot.c0, lockd t.prot.c1, lockd t.prot.c2, lockd t.prot.c3⟩ }
    (s.temp.state = .cool →
      (r < 110 → exec (.tempReading r) s = .next (goes .cool s)) ∧
      (110 ≤ r → r < 140 → exec (.tempReading r) s = .next (told .tempWarn (goes .warm s))) ∧
      (140 ≤ r → exec (.tempReading r) s =
        .next (told .tempLock (derated (goes .lock (told .tempWarn s)))))) ∧
    (s.temp.state = .warm →
      (r ≤ 95 → exec (.tempReading r) s = .next (goes .cool s)) ∧
      (95 < r → r < 140 → exec (.tempReading r) s = .next (goes .warm s)) ∧
      (140 ≤ r → exec (.tempReading r) s = .next (told .tempLock (derated (goes .lock s))))) ∧
    (s.temp.state = .lock →
      (r ≤ 95 → exec (.tempReading r) s = .next (told .tempClear (goes .cool s))) ∧
      (95 < r → r ≤ 125 → exec (.tempReading r) s = .next (told .tempClear (goes .warm s))) ∧
      (125 < r → exec (.tempReading r) s = .next (goes .lock s)))

/-- NOP, IDENTIFY, DEV-STATUS and the end of the ATTN# pulse. That ATTN_PULSE_END with no pulse timer running
does nothing is the model's choice (log entry 3). -/
def Obligations.ReportsAndPulseEnd : Prop :=
  (∀ (m : Msg) (s : State), Taken .nop m s →
    exec (.nop m) s = .next (answered .nop m .ok [] s s)) ∧
  (∀ (m : Msg) (s : State), Taken .identify m s →
    (m.payload = [] → exec (.identify m) s = .next (answered .identify m .ok
      [0x2E510424#32, putFlag 11 s.dev.attnsel ||| put 8 s.dev.mksel.toNat ||| 1#32] s s)) ∧
    (m.payload ≠ [] → exec (.identify m) s = .next (answered .identify m .badVal [] s s))) ∧
  (∀ (m : Msg) (s : State), Taken .devStatus m s →
    (m.payload = [] → exec (.devStatus m) s = .next (answered .devStatus m .ok
      [ (s.dev.counter >>> 32).setWidth 32,
        s.dev.counter.setWidth 32,
        putSigned 16 s.temp.reading |||
          put 0 (match s.temp.state with | .cool => 0 | .warm => 1 | .lock => 2),
        put 16 s.cue.sendQ.length ||| put 0 s.cue.delivery.length,
        put 0 (s.mem.free.map Region.len).sum,
        putFlag 3 s.dev.attnsel ||| put 0 s.dev.mksel.toNat ] s s)) ∧
    (m.payload ≠ [] → exec (.devStatus m) s = .next (answered .devStatus m .badVal [] s s))) ∧
  ∀ s : State, Between s →
    (s.events.pulse = true → exec .attnPulseEnd s =
      .next (s.setEvents { s.events with attn := false, pulse := false })) ∧
    (s.events.pulse = false → exec .attnPulseEnd s = .next s)

/-- DEV-CONFIG: the refusals, the four settings and ATTN#. Whether the CLKIN edge with count 0 of this
period has passed is left open where it can have (log entry 11). That an idle timer at 2H has to reach 2H of a
new H is the model's choice (log entry 31). -/
def Obligations.DeviceConfiguration : Prop :=
  ∀ (m : Msg) (s : State), Taken .devConfig m s → m.payload.length = 1 →
    let w := msgWord m 0
    let divider := bitsOf w 24 16
    let due := s.dev.pendingDivider.getD s.dev.divider
    let busy := ∃ n, (s.ch n).playback = .armed ∨ (s.ch n).playback = .running
    let mode : AttnMode := if flagOf w 8 = true then .pulse else .level
    let hp : HalfPeriod := (match bitsOf w 13 12 with | 0 => .half | 1 => .one | 2 => .two | _ => .four)
    (divider < 1 ∨ 256 < divider →
      exec (.devConfig m) s = .next (answered .devConfig m .badVal [] s s)) ∧
    (1 ≤ divider → divider ≤ 256 →
      (busy ∧ divider ≠ due →
        exec (.devConfig m) s = .next (answered .devConfig m .busy [] s s)) ∧
      (¬ busy ∨ divider = due → ∃ passed : Bool,
        (s.dev.pendingDivider ≠ none → passed = s.dev.zeroPassed) ∧
        (s.dev.zeroPassed = true → passed = true) ∧
        (passed = true → s.dev.zeroPassed = true ∨
          ∃ c, s.dev.refEdge = some c ∧ 256 < c + s.dev.divider) ∧
        exec (.devConfig m) s = .next (answered .devConfig m .ok []  s
          { s with
            events :=
              if s.dev.attnMode = .level ∧ mode = .pulse then { s.events with attn := false }
              else if s.dev.attnMode = .pulse ∧ mode = .level then
                { s.events with attn := !s.events.records.isEmpty, pulse := false }
              else s.events
            dev := { s.dev with
              pendingDivider :=
                if divider = due then s.dev.pendingDivider
                else if divider = s.dev.divider then none
                else some divider
              zeroPassed := passed
              half := hp
              attnMode := mode
              align := bitsOf w 7 0 }
            cue := { s.cue with idleEnough := s.cue.idleEnough && decide (hp = s.dev.half) }
            freeIndex := s.freeIndex + 1 })))

/-- EVENT-READ: the reply, the queue it leaves, and ATTN#; the layout of a record's three words, and the values of
the records about cues. That the CHANNEL and STEP fields are 0 where a record has none is the model's choice, and
that the bits R179 does not name in the values about cues are 0 its inference (log entry 32). -/
def Obligations.EventReadTakesTheOldest : Prop :=
  (∀ (cue : Nat) (src : CueSource), cue ≤ 63 →
    let v := cueSourceValue cue src
    bitsOf v 5 0 = cue ∧ bitsOf v 7 6 = 0 ∧ bitsOf v 31 10 = 0 ∧
    bitsOf v 9 8 = (match src with
      | .cueSend => 0 | .stepEmit _ _ => 1 | .trigger .trig0 => 2 | .trigger .trig1 => 3)) ∧
  CueErrorReason.parity.value = 1#32 ∧ CueErrorReason.framing.value = 2#32 ∧
  CueErrorReason.stuck.value = 3#32 ∧
  (∀ cue : Nat, cue ≤ 63 →
    let v := (CueErrorReason.overrun cue).value
    bitsOf v 7 0 = 4 ∧ bitsOf v 13 8 = cue ∧ bitsOf v 31 14 = 0) ∧
  (∀ e : Event, (∀ k, e.step = some k → k ≤ 63) →
    ∃ w0 w1 w2 : Word, eventWords e = [w0, w1, w2] ∧
      bitsOf w0 31 24 = (match e.kind with
        | .seqDone => 1 | .startLate => 2 | .streamLow => 3 | .streamHigh => 4 | .streamUnderrun => 5
        | .cueLost => 6 | .cueDropped => 7 | .cueError => 8 | .stopCue => 9 | .clip => 10 | .limit => 11
        | .overload => 12 | .shutdown => 13 | .tempWarn => 14 | .tempLock => 15 | .tempClear => 16
        | .segCleared => 17) ∧
      flagOf w0 23 = e.channel.isSome ∧ flagOf w0 22 = e.step.isSome ∧ flagOf w0 21 = e.value.isSome ∧
      bitsOf w0 20 18 = 0 ∧ bitsOf w0 15 14 = 0 ∧ bitsOf w0 7 0 = 0 ∧
      bitsOf w0 17 16 = (match e.channel with
        | none => 0 | some .ch0 => 0 | some .ch1 => 1 | some .ch2 => 2 | some .ch3 => 3) ∧
      bitsOf w0 13 8 = e.step.getD 0 ∧ w1 = e.value.getD 0 ∧ w2 = e.stamp) ∧
  ∀ (m : Msg) (s : State), Taken .eventRead m s → m.payload.length = 1 →
    let most := bitsOf (msgWord m 0) 7 0
    let r := min most s.events.records.length
    (most < 1 ∨ 32 < most →
      exec (.eventRead m) s = .next (answered .eventRead m .badVal [] s s)) ∧
    (1 ≤ most → most ≤ 32 →
      exec (.eventRead m) s = .next (answered .eventRead m .ok
        ((putFlag 31 s.events.lost ||| put 0 r) :: (s.events.records.take r).flatMap eventWords) s
        (s.setEvents
          { records := s.events.records.drop r
            lost := false
            attn := if s.dev.attnMode = .level then decide (r < s.events.records.length)
              else s.events.attn
            pulse := s.events.pulse })))

/-- DEV-RESET with scope PLAYBACK: what it empties, how a frame in flight leaves the wires, and that it keeps
everything else. That steps 1 and 2 of the ordered release are taken with the reset is the model's choice (log
entry 30), and so are that the row fixes the SCOPE field (log entry 16) and the phase an IDLE channel holds (log
entry 21). -/
def Obligations.PlaybackResetEffect : Prop :=
  ∀ (m : Msg) (s : State), Taken .devReset m s → m.payload.length = 1 →
    let c := s.cue
    let keeps := c.ck.own || (c.dt.own && !c.ck.low)
    ∃ (q : Quad Channel) (l : Link),
      exec (.devResetPlayback m) s = .next
        { s with
          mem := { s.mem with segs := s.mem.segs.map (fun g => { g with refs := 0 }) }
          chans := q
          cue := { c with
            sendQ := []
            inFlight := none
            delivery := []
            ck := ⟨keeps, c.ck.others⟩
            dt := ⟨false, c.dt.others⟩
            receiver :=
              match c.receiver with
              | .inside bits started =>
                if keeps = true ∧ c.ck.low = false then
                  if started = true then .inside bits false
                  else if bits.length < 7 then .inside (bits ++ [false]) false
                  else .ended (bits ++ [false])
                else .inside bits started
              | r => r
            idleEnough := false
            stuckCk := c.stuckCk && (keeps || c.ck.others)
            stuckDt := c.stuckDt && c.dt.others }
          link := l } ∧
      (∀ n, q.get n =
        { settings := (s.ch n).settings, mask := (s.ch n).mask, hold := (s.ch n).settings.park,
          out := (s.ch n).out }) ∧
      l.rxBuffer = [] ∧ l.bitCount = 0 ∧ l.awaitRise = false ∧
      l.reply = ⟨0, .reset, summaryOf s, [4#32]⟩

/-- The three full resets: every block at its default, the temperature evaluated from COOL. That DEV-RESET ALL
clears the two reports of a stuck line is the model's inference (log entry 24), that a reading outside
-40..150 is limited its choice (log entry 26), and so is the reset a POWER_ON makes while RESET# is low
(log entry 19). Its choice are also that every store word reads 0 after a full reset, where R18 gives no
contents (log entry 9), the phase an IDLE channel holds (log entry 21), and for DEV-RESET ALL that steps 1 and 2
of the ordered release are taken with the reset (log entry 30), that its row fixes the SCOPE field and carries
the reading (log entry 16), and that the pins stand as last told (log entry 27). How many edges of the period a
DEV-RESET ALL finds passed is left open (log entry 11). -/
def Obligations.FullResets : Prop :=
  let marks := fun v : BitVec 3 =>
    ([(1024, 7168), (512, 7680), (256, 7936), (128, 8064), (64, 8128), (2048, 6144), (1536, 6656),
      (3072, 5120)] : List (Nat × Nat)).getD v.toNat (0, 0)
  let begun := fun (p : Pins) (cause : Word) (keeps : Bool) (t : State) =>
    t.mem = { store := [], segs := [], free := [⟨0, 262144⟩], clearList := [] } ∧
    (∀ n, (t.ch n).list = [] ∧ (t.ch n).playback = .idle ∧ (t.ch n).run = {} ∧ (t.ch n).mask = 0 ∧
      (t.ch n).pendingCues = 0 ∧ (t.ch n).stream = ⟨[], 0⟩ ∧ (t.ch n).hold = 0 ∧
      (t.ch n).markers = ⟨false, false⟩ ∧ (t.ch n).clip = false ∧ (t.ch n).limit = false ∧
      (t.ch n).settings =
        ⟨-32768, 32767, 0, .park, (marks p.mksel).1, (marks p.mksel).2, 1024⟩) ∧
    t.cue = ⟨[], none, .outside, ⟨keeps, p.ckLow⟩, ⟨false, p.dtLow⟩, false, false, false, [],
      ⟨false, .rising, 0, p.trig0, p.trig0⟩, ⟨false, .rising, 0, p.trig1, p.trig1⟩⟩ ∧
    (∀ n, (t.pr n).enable = true ∧ (t.pr n).escalating = false ∧
      (t.pr n).qual = if (t.pr n).asserted = true then .running else .stopped) ∧
    (t.pr .ch0).asserted = p.flt0 ∧ (t.pr .ch1).asserted = p.flt1 ∧ (t.pr .ch2).asserted = p.flt2 ∧
    (t.pr .ch3).asserted = p.flt3 ∧
    t.link.rxBuffer = [] ∧ t.link.bitCount = 0 ∧ t.link.awaitRise = p.selLow ∧
    t.link.reply = ⟨0, .reset, summaryOf t, [cause]⟩ ∧
    t.dev.counter = 0 ∧ t.dev.divider = 1 ∧ t.dev.pendingDivider = none ∧
    t.dev.zeroPassed = false ∧ t.dev.half = .one ∧
    t.dev.align = 16 ∧ t.dev.mksel = p.mksel ∧ t.dev.attnsel = p.attnsel ∧
    t.dev.attnMode = (if p.attnsel = true then .pulse else .level) ∧
    t.temp.reading = clamp p.reading (-40) 150 ∧
    t.resetHeld = false ∧ t.boundaryOpen = false ∧ t.events.lost = false ∧
    (p.reading < 110 → t.temp.state = .cool ∧ t.events.records = [] ∧ t.events.attn = false ∧
      ∀ n, (t.pr n).state = .normal ∧ (t.pr n).cause = .none) ∧
    (110 ≤ p.reading → p.reading < 140 → t.temp.state = .warm ∧
      t.events.records.map Event.kind = [.tempWarn] ∧ t.events.attn = true ∧
      ∀ n, (t.pr n).state = .normal ∧ (t.pr n).cause = .none) ∧
    (140 ≤ p.reading → t.temp.state = .lock ∧
      t.events.records.map Event.kind = [.tempWarn, .tempLock] ∧ t.events.attn = true ∧
      ∀ n, (t.pr n).state = .derated ∧ (t.pr n).cause = .temp)
  let fresh : OutputPins := ⟨⟨0, ⟨false, false⟩⟩, ⟨0, ⟨false, false⟩⟩, ⟨0, ⟨false, false⟩⟩,
    ⟨0x8000#16, ⟨false, false⟩⟩, .runs⟩
  (∀ (p : Pins) (s : State),
    (∃ t, exec (.powerOn p) s = .next t ∧ begun p 1#32 false t ∧ t.dev.refEdge = none ∧
      ∀ n, (t.ch n).out = fresh) ∧
    (s.resetHeld = true →
      ∃ t, exec (.pinResetEnd p) s = .next t ∧ begun p 2#32 false t ∧ t.dev.refEdge = none ∧
        ∀ n, (t.ch n).out = fresh)) ∧
  ∀ (m : Msg) (reading : Int) (s : State), Taken .devReset m s → m.payload.length = 1 →
    ∃ t, exec (.devResetAll m reading) s = .next t ∧
      begun { mksel := s.dev.mksel, attnsel := s.dev.attnsel, trig0 := s.cue.trig0.pin,
              trig1 := s.cue.trig1.pin, flt0 := (s.pr .ch0).asserted, flt1 := (s.pr .ch1).asserted,
              flt2 := (s.pr .ch2).asserted, flt3 := (s.pr .ch3).asserted, ckLow := s.cue.ck.others,
              dtLow := s.cue.dt.others, reading := reading } 3#32
        (s.cue.ck.own || (s.cue.dt.own && !s.cue.ck.low)) t ∧
      (s.dev.refEdge = none → t.dev.refEdge = none) ∧
      (∀ c, s.dev.refEdge = some c →
        let least := if s.dev.zeroPassed = true then 256 - c else 0
        let next := if s.dev.pendingDivider ≠ none ∧ 256 ≤ c + s.dev.divider ∧ s.dev.zeroPassed = false
          then 256 - c else s.dev.divider
        least < next →
        ∃ e, least ≤ e ∧ e < next ∧ t.dev.refEdge = some ((c + e) % 256)) ∧
      ∀ n, (t.ch n).out = (s.ch n).out

/-- The fall of RESET#, and that nothing but the ends of a reset acts while it is low. That the boundary,
fault and timer rows do nothing then is the model's choice (log entry 19), and so are the third clause, that
PIN_RESET_END told out of reset changes nothing (log entry 3), the pin levels State.reset takes (log entry 1),
and its store that reads 0 and its phase of an IDLE channel (log entries 9 and 21). -/
def Obligations.HeldResetDrivesOutputs : Prop :=
  (∀ s : State, Between s → ∃ t, exec .pinResetAssert s = .next t ∧ t.resetHeld = true ∧
    (∀ n, (t.ch n).out = ⟨⟨0, ⟨false, false⟩⟩, ⟨0, ⟨false, false⟩⟩, ⟨0, ⟨false, false⟩⟩,
        ⟨0x8000#16, ⟨false, false⟩⟩, .heldLow⟩ ∧ (t.ch n).markers = ⟨false, false⟩ ∧
      (t.pr n).enable = false) ∧
    t.events.attn = false ∧ t.events.pulse = false ∧ t.cue.inFlight = none ∧
    t.cue.receiver = .outside ∧ t.cue.ck.own = false ∧ t.cue.dt.own = false ∧ t.link.rxBuffer = [] ∧
    t.link.bitCount = 0 ∧ t.link.carriedOut = none) ∧
  (∀ (c : Instr) (s : State), s.resetHeld = true → (∀ p, c ≠ .powerOn p) → (∀ p, c ≠ .pinResetEnd p) →
    exec c s = .next s) ∧
  (∀ (p : Pins) (s : State), s.resetHeld = false → exec (.pinResetEnd p) s = .next s) ∧
  ∀ s : State, s.freeIndex = 0 → s.pending = [] →
    exec (.powerOn { mksel := 0, attnsel := false, trig0 := false, trig1 := false, reading := 0 }) s =
      .next State.reset

/-- The state after reset is a good state of every block. -/
def Obligations.ResetStateIsGood : Prop := State.Ok State.reset

/-- A sample boundary: one code presented on each channel, three boundaries of delay, the offset-binary bus,
the clock, and the frame. That a boundary may stand open, its counter already up, is the model's choice
(log entry 5). -/
def Obligations.EveryBoundaryPresentsOnce : Prop :=
  ∀ (turns deferred : List Ch) (s : State), s.resetHeld = false →
    ∃ t, exec (.sampleBoundary turns deferred) s = .next t ∧ SameOutside s t ∧
      t.boundaryOpen = false ∧ s.events.records <+: t.events.records ∧
      (s.boundaryOpen = true → t.dev = s.dev) ∧
      (s.boundaryOpen = false → t.dev.counter = s.dev.counter + 1 ∧
        (s.dev.pendingDivider = none → t.dev = { s.dev with
          counter := s.dev.counter + 1
          zeroPassed := false
          refEdge := some (match s.dev.refEdge with
            | none => 0
            | some e => (e + s.dev.divider) % 256) }) ∧
        (∀ d e, s.dev.pendingDivider = some d → s.dev.refEdge = some e →
          (e + s.dev.divider < 256 ∨ s.dev.zeroPassed = true → t.dev = { s.dev with
            counter := s.dev.counter + 1
            zeroPassed := false
            refEdge := some ((e + s.dev.divider) % 256) }) ∧
          (256 ≤ e + s.dev.divider → s.dev.zeroPassed = false → t.dev = { s.dev with
            counter := s.dev.counter + 1
            zeroPassed := false
            divider := d
            pendingDivider := none
            refEdge := some 0 })) ∧
        (∀ d, s.dev.pendingDivider = some d → s.dev.refEdge = none → t.dev = { s.dev with
          counter := s.dev.counter + 1
          zeroPassed := false
          divider := d
          pendingDivider := none
          refEdge := some 0 })) ∧
      ∀ n, (t.ch n).settings = (s.ch n).settings ∧ (t.ch n).mask = (s.ch n).mask ∧
        (t.ch n).list.map Slot.record = (s.ch n).list.map Slot.record ∧
        ∃ p : Presented,
          (t.ch n).out = ⟨p, (s.ch n).out.d1, (s.ch n).out.d2,
            ⟨BitVec.ofInt 16 ((s.ch n).out.d3.code + 32768), (s.ch n).out.d3.markers⟩,
            (s.ch n).out.strobe⟩ ∧
          p.markers = (t.ch n).markers ∧
          ((t.ch n).hold = p.code ∨ ((t.ch n).playback = .done ∧
            (t.ch n).settings.endAction = .park ∧ (t.ch n).hold = (t.ch n).settings.park))

/-- The codes that are not played samples: what becomes of the whole channel. `o` is the state once the
boundary is reached: `s` itself if the boundary stands open, and else as StartTimeEntersStepZero spells
it. -/
def Obligations.UnplayedCodes : Prop :=
  ∀ (turns deferred : List Ch) (s : State) (n : Ch),
    let o := openBoundary turns s
    AtCodes o →
    ∃ t, exec (.sampleBoundary turns deferred) s = .next t ∧
      let c := o.ch n
      let presents := fun code : Int =>
        t.ch n = presenting code ⟨false, false⟩ c ∧ ∀ k, recordsOf o t k n = []
      (c.playback = .idle → presents c.settings.park) ∧
      (c.playback = .armed → presents c.hold) ∧
      (c.playback = .running → c.run.phase = .waiting → presents c.hold) ∧
      (∀ r, c.playback = .running → c.run.phase = .priming → c.record = some r →
        c.stream.fifo.length < min (r.length.getD 0 - c.run.consumed) c.settings.prime →
        presents c.hold) ∧
      (c.playback = .done → presents
        (match c.settings.endAction with | .park => c.settings.park | .hold => c.hold))

/-- A played sample of a memory step: the whole channel it leaves, and its records. `o` is the state once the
boundary is reached. A deferred step end is left owed (log entry 7). -/
def Obligations.MemorySamplePlayed : Prop :=
  ∀ (turns deferred : List Ch) (s : State) (n : Ch) (slot : Slot) (id : Nat) (g : Segment),
    let o := openBoundary turns s
    let c := o.ch n
    let r := slot.record
    AtCodes o → c.playback = .running → c.run.phase = .playing → c.list[c.run.step]? = some slot →
    r.source = .memory id → findSeg o.mem.segs id = some g →
    let a := (Memory.read o.mem.store (g.base + c.run.i)).toInt
    let b := if c.run.i + 1 < g.play then (Memory.read o.mem.store (g.base + c.run.i + 1)).toInt else a
    let v := a + ⌊(((b - a) * c.run.f + 32768 : Int) : ℚ) / 65536⌋
    let u := ⌊((v * r.gain + 8192 : Int) : ℚ) / 16384⌋ + r.offset
    let us := max (-32768) (min u 32767)
    let d := if (o.pr n).state = .derated then us.tdiv 4 else us
    let code := clamp d c.settings.lmin c.settings.lmax
    let m : MarkerLevels := match r.marker with
      | some k => if 0 < c.run.markerLeft then ⟨k.a, k.b⟩ else ⟨false, false⟩
      | none => ⟨false, false⟩
    let i' := c.run.i + (c.run.f + r.rate) / 65536
    let f' := (c.run.f + r.rate) % 65536
    let run : RunRecord := { c.run with markerLeft := c.run.markerLeft - 1 }
    let played := fun run' : RunRecord => { presenting code m c with
      run := run', clip := c.clip || decide (us ≠ u), limit := c.limit || decide (code ≠ d) }
    let left := if r.repeats = 0 then c.run.repeatsLeft else c.run.repeatsLeft - 1
    let goesOn := c.run.leave = false ∧ (r.repeats = 0 ∨ 1 < c.run.repeatsLeft)
    let event := fun (k : EventKind) (x : Option Word) =>
      (⟨k, some n, some c.run.step, x, o.dev.counter.setWidth 32⟩ : Event)
    ∃ t, exec (.sampleBoundary turns deferred) s = .next t ∧
      (i' < g.play → t.ch n = played { run with i := i', f := f' }) ∧
      (g.play ≤ i' → n ∈ deferred → t.ch n = played { run with owed := .repeatBoundary }) ∧
      (g.play ≤ i' → n ∉ deferred →
        (goesOn → t.ch n = played { run with
          i := i' - g.play, f := f', repeatsLeft := left, owed := .nothing }) ∧
        (¬ goesOn → t.ch n = afterStepEnd slot (played { run with repeatsLeft := left }))) ∧
      Tells o t .clip n
        (if us ≠ u ∧ c.clip = false then some (event .clip (some (BitVec.ofInt 32 u))) else none) ∧
      Tells o t .limit n
        (if code ≠ d ∧ c.limit = false then some (event .limit (some (BitVec.ofInt 32 d))) else none) ∧
      Tells o t .seqDone n
        (if g.play ≤ i' ∧ n ∉ deferred ∧ ¬ goesOn ∧ c.list.length ≤ nextIndex slot c.run.step then
          some (event .seqDone none) else none) ∧
      ∀ k, k ∉ [EventKind.clip, .limit, .seqDone] → recordsOf o t k n = []

/-- A stream step at a boundary: the sample consumed, or the underrun; the whole channel each leaves, and its
records. `o` is the state once the boundary is reached. A deferred end, at the length or by underrun, is left owed,
the debt and STREAM_UNDERRUN standing already: the model's choice (log entry 7). -/
def Obligations.StreamSamplePlayedOrUnderrun : Prop :=
  ∀ (turns deferred : List Ch) (s : State) (n : Ch) (slot : Slot),
    let o := openBoundary turns s
    let c := o.ch n
    let r := slot.record
    AtCodes o → c.playback = .running → c.run.phase = .playing → c.list[c.run.step]? = some slot →
    r.source = .stream →
    let len := r.length.getD 0
    let event := fun (k : EventKind) (x : Option Word) =>
      (⟨k, some n, some c.run.step, x, o.dev.counter.setWidth 32⟩ : Event)
    let listEnds := c.list.length ≤ nextIndex slot c.run.step
    ∃ t, exec (.sampleBoundary turns deferred) s = .next t ∧
      (∀ x rest, c.stream.fifo = x :: rest →
        let u := ⌊((x.toInt * r.gain + 8192 : Int) : ℚ) / 16384⌋ + r.offset
        let us := max (-32768) (min u 32767)
        let d := if (o.pr n).state = .derated then us.tdiv 4 else us
        let code := clamp d c.settings.lmin c.settings.lmax
        let m : MarkerLevels := match r.marker with
          | some k => if 0 < c.run.markerLeft then ⟨k.a, k.b⟩ else ⟨false, false⟩
          | none => ⟨false, false⟩
        let run : RunRecord :=
          { c.run with markerLeft := c.run.markerLeft - 1, consumed := c.run.consumed + 1 }
        let played := fun run' : RunRecord => { presenting code m c with
          run := run', stream := ⟨rest, c.stream.debt⟩
          clip := c.clip || decide (us ≠ u), limit := c.limit || decide (code ≠ d) }
        (c.run.consumed + 1 < len → t.ch n = played run) ∧
        (len ≤ c.run.consumed + 1 → n ∈ deferred →
          t.ch n = played { run with owed := .streamEnd }) ∧
        (len ≤ c.run.consumed + 1 → n ∉ deferred → t.ch n = afterStepEnd slot (played run)) ∧
        Tells o t .streamLow n
          (if c.settings.lowMark < rest.length + 1 ∧ rest.length ≤ c.settings.lowMark then
            some (event .streamLow (some (BitVec.ofNat 32 rest.length))) else none) ∧
        Tells o t .clip n
          (if us ≠ u ∧ c.clip = false then some (event .clip (some (BitVec.ofInt 32 u))) else none) ∧
        Tells o t .limit n
          (if code ≠ d ∧ c.limit = false then some (event .limit (some (BitVec.ofInt 32 d)))
            else none) ∧
        Tells o t .seqDone n
          (if len ≤ c.run.consumed + 1 ∧ n ∉ deferred ∧ listEnds then some (event .seqDone none)
            else none) ∧
        ∀ k, k ∉ [EventKind.streamLow, .clip, .limit, .seqDone] → recordsOf o t k n = []) ∧
      (c.stream.fifo = [] →
        let held := presenting c.hold ⟨false, false⟩ c
        let owes := fun c' : Channel =>
          { c' with stream := ⟨[], min (c.stream.debt + (len - c.run.consumed)) 16777215⟩ }
        (n ∉ deferred → t.ch n = owes (afterStepEnd slot held)) ∧
        (n ∈ deferred → t.ch n = owes { held with run := { c.run with owed := .streamEnd } }) ∧
        Tells o t .streamUnderrun n
          (some (event .streamUnderrun (some (BitVec.ofNat 32 (len - c.run.consumed))))) ∧
        Tells o t .seqDone n (if n ∉ deferred ∧ listEnds then some (event .seqDone none) else none) ∧
        ∀ k, k ∉ [EventKind.streamUnderrun, .seqDone] → recordsOf o t k n = [])

/-- A repeat boundary resolved: phase-continuous repetition, or the step end. That a step end may be owed to a
later command is the model's choice (log entry 7), and so is that nothing changes with none owed (log
entry 3). -/
def Obligations.RepeatBoundaryResolved : Prop :=
  ∀ (s : State) (n : Ch), s.resetHeld = false →
    let c := s.ch n
    (c.playback ≠ .running ∨ c.run.owed ≠ .repeatBoundary →
      exec (.repeatBoundary n) s = .next s) ∧
    ∀ (r : StepRecord) (id : Nat) (g : Segment), c.playback = .running →
      c.run.owed = .repeatBoundary → c.record = some r → r.source = .memory id →
      findSeg s.mem.segs id = some g →
      let left := if r.repeats = 0 then c.run.repeatsLeft else c.run.repeatsLeft - 1
      (c.run.leave = false ∧ (r.repeats = 0 ∨ 1 < c.run.repeatsLeft) →
        exec (.repeatBoundary n) s = .next (s.setCh n { c with
          run := { c.run with
            i := c.run.i + (c.run.f + r.rate) / 65536 - g.play
            f := (c.run.f + r.rate) % 65536
            repeatsLeft := left
            owed := .nothing } })) ∧
      (c.run.leave = true ∨ (r.repeats ≠ 0 ∧ c.run.repeatsLeft ≤ 1) →
        exec (.repeatBoundary n) s = .next
          (stepEnd n (s.setCh n { c with
            run := { c.run with repeatsLeft := left, owed := .nothing } })))

/-- The step end: the jump table, the compare with the list's length, list end. That STREAM_LENGTH_REACHED
acts on an end left owed, by underrun too, is the model's choice (log entry 7), and so is that it does nothing
otherwise (log entry 3). -/
def Obligations.StepEndFollowsTheJump : Prop :=
  (∀ (s : State) (n : Ch) (t : Slot), (s.ch n).list[(s.ch n).run.step]? = some t →
    let c := s.ch n
    let k := c.run.step
    let next := match t.record.jump with
      | none => k + 1
      | some j => if j.count = 0 ∨ 0 < t.loops then j.target else k + 1
    let loops := match t.record.jump with
      | none => t.loops
      | some j => if j.count = 0 then t.loops else if 0 < t.loops then t.loops - 1 else j.count
    let list := c.list.set k { t with loops := loops }
    (next < c.list.length →
      stepEnd n s = s.setCh n (afterStepEnd t c) ∧
      afterStepEnd t c = { c with
        list := list
        run := { c.run with next := some next, owed := .nothing } }) ∧
    (c.list.length ≤ next →
      stepEnd n s = enterEvent .seqDone (some n) (some k) none (s.setCh n (afterStepEnd t c)) ∧
      afterStepEnd t c = { c with
        list := list
        playback := .done
        run := { c.run with next := none, owed := .nothing }
        hold := match c.settings.endAction with | .park => c.settings.park | .hold => c.hold })) ∧
  ∀ (s : State) (n : Ch), s.resetHeld = false →
    ((s.ch n).playback = .running → (s.ch n).run.owed = .streamEnd →
      exec (.streamLengthReached n) s = .next (stepEnd n s)) ∧
    ((s.ch n).playback ≠ .running ∨ (s.ch n).run.owed ≠ .streamEnd →
      exec (.streamLengthReached n) s = .next s)

/-- A boundary reached: the ends still owed, the clock, and the entry of every channel that is due, at
START_TIME_REACHED as at SAMPLE_BOUNDARY. That START_TIME_REACHED opens the boundary and leaves it open is
the model's choice (log entry 5), and so is that it does nothing otherwise (log entry 3). -/
def Obligations.StartTimeEntersStepZero : Prop :=
  (∀ (s : State) (turns deferred : List Ch), s.resetHeld = false →
    let u := openBoundary turns s
    exec (.sampleBoundary turns deferred) s = exec (.sampleBoundary turns deferred) u ∧
    (s.boundaryOpen = true → u = s) ∧
    (s.boundaryOpen = false →
      let k := s.dev.counter + 1
      let s0 := eachCh (channelOrder turns) settle s
      let enter := fun (n : Ch) (x : State) =>
        match entryOf k (s0.ch n) with
        | some idx => enterStep n idx x
        | none => x
      u = (eachCh (channelOrder turns) enter (s0.setDev (advanceClock s.dev))).setOpen true ∧
      u.dev.counter = k ∧
      ∀ n, ((s.ch n).playback = .armed → (s.ch n).run.start = .time k →
          (s.ch n).run.startAt = some k →
          exec (.startTimeReached n turns) s = .next u ∧ entryOf k (s0.ch n) = some 0) ∧
        ((s.ch n).playback ≠ .armed ∨ (s.ch n).run.start ≠ .time k ∨
          (s.ch n).run.startAt ≠ some k → exec (.startTimeReached n turns) s = .next s)) ∧
    ∀ n, s.boundaryOpen = true → exec (.startTimeReached n turns) s = .next s) ∧
  (∀ (s : State) (n : Ch) (idx : Nat) (t : Slot), (s.ch n).list[idx]? = some t →
    let c := s.ch n
    let r := t.record
    let pushed := match r.emit with | none => s | some q => pushOrDrop q (.stepEmit n idx) s
    let waits := ∃ q, r.wait = some q ∧ ¬ (cueIn c.pendingCues q = true ∧ r.leave ≠ some q)
    ∃ (pend : CueSet) (leave : Bool) (phase : Phase),
      (∀ q, cueIn pend q =
        (cueIn c.pendingCues q && decide (r.leave ≠ some q) && decide (r.wait ≠ some q))) ∧
      (leave = true ↔ ∃ q, r.leave = some q ∧ cueIn c.pendingCues q = true) ∧
      (waits → phase = .waiting) ∧
      (¬ waits → phase = match r.source with | .memory _ => .playing | .stream => .priming) ∧
      enterStep n idx s = pushed.setCh n { c with
        playback := .running
        pendingCues := pend
        run :=
          { start := .none, startAt := none, step := idx, phase := phase, i := 0, f := 0
            repeatsLeft := r.repeats, leave := leave
            markerLeft := match r.marker with | some x => x.width | none => 0
            consumed := 0, next := none, owed := .nothing } }) ∧
  (∀ (s : State) (cue : Nat) (src : CueSource),
    let merges := cue = 0 ∧ ∃ e ∈ s.cue.sendQ, e.cue = 0
    (merges → pushOrDrop cue src s = s) ∧
    (¬ merges →
      (8 ≤ s.cue.sendQ.length → pushOrDrop cue src s =
        enterEvent .cueDropped src.channel src.step (some (cueSourceValue cue src)) s) ∧
      (s.cue.sendQ.length < 8 → pushOrDrop cue src s = s.setCue { s.cue with
        sendQ := placeEntry ⟨cue, src, 0⟩ s.cue.inFlight.isSome s.cue.sendQ }))) ∧
  ∀ (s t : State) (n : Ch), s.resetHeld = false → exec (.repeatBoundary n) s = .next t →
    exec (.streamLengthReached n) t = .next (settle n s)

/-- The priming requirement met, the marker width spent, the divider switched. `o` is the state once the
boundary is reached. That these moments are commands of their own is the model's choice (log entry 5), that
the edge count is held at boundaries too (log entry 11), and that a row whose moment does not come does
nothing (log entry 3). -/
def Obligations.PrimingMarkerAndDivider : Prop :=
  (∀ (s : State) (n : Ch) (turns : List Ch),
    let o := openBoundary turns s
    let c := o.ch n
    s.resetHeld = false →
    (AtCodes o →
      let met := c.playback = .running ∧ c.run.phase = .priming ∧ ∃ r, c.record = some r ∧
        min (r.length.getD 0 - c.run.consumed) c.settings.prime ≤ c.stream.fifo.length
      (met → exec (.primingMet n turns) s =
        .next (o.setCh n { c with run := { c.run with phase := .playing } })) ∧
      (¬ met → exec (.primingMet n turns) s = .next s)) ∧
    let spent := c.playback = .running ∧ c.run.phase = .playing ∧ c.run.markerLeft = 0 ∧
      ∃ r, c.record = some r ∧ r.marker ≠ none
    (spent → exec (.markerWidthEnd n turns) s =
      .next (o.setCh n { c with markers := ⟨false, false⟩ })) ∧
    (¬ spent → exec (.markerWidthEnd n turns) s = .next s)) ∧
  ∀ (s : State) (turns : List Ch), s.resetHeld = false →
    let due := s.boundaryOpen = false ∧ s.dev.pendingDivider ≠ none ∧
      (s.dev.refEdge = none ∨
        ∃ e, s.dev.refEdge = some e ∧ 256 ≤ e + s.dev.divider ∧ s.dev.zeroPassed = false)
    (∀ d, due → s.dev.pendingDivider = some d →
      ∃ t, exec (.dividerSwitch turns) s = .next t ∧ SameOutside s t ∧ t.boundaryOpen = true ∧
        t.dev = { s.dev with
          counter := s.dev.counter + 1, divider := d, pendingDivider := none, refEdge := some 0
          zeroPassed := false }) ∧
    (¬ due → exec (.dividerSwitch turns) s = .next s)

/-- A cue at its effective sample, any cue, told as its own command or within SAMPLE_BOUNDARY; and the stop
cue. `o` is the state once the boundary is reached. One due entry for one command is the model's choice (log
entry 5), and so is that nothing happens with none due (log entry 3). -/
def Obligations.StopCueStopsEveryChannel : Prop :=
  ∀ (s : State) (turns deferred : List Ch), s.resetHeld = false →
    let o := openBoundary turns s
    ((∀ d ∈ s.cue.delivery, d.effect ≠ o.dev.counter) →
      exec (.cueEffectiveSample turns) s = .next s) ∧
    ∀ pre post cue, s.cue.delivery = pre ++ ⟨cue, o.dev.counter⟩ :: post →
      (∀ d ∈ pre, d.effect ≠ o.dev.counter) →
      let t := eachCh (channelOrder turns) (takeCue cue)
        (o.setCue { o.cue with delivery := pre ++ post })
      exec (.cueEffectiveSample turns) s = .next t ∧
      exec (.sampleBoundary turns deferred) s = exec (.sampleBoundary turns deferred) t ∧
      (cue = 0 → SameOutside s t ∧ t.dev = o.dev ∧ t.boundaryOpen = true ∧
        t.cue = { o.cue with delivery := pre ++ post } ∧ o.events.records <+: t.events.records ∧
        ∀ n, ((o.ch n).playback = .idle → t.ch n = { o.ch n with pendingCues := 0 } ∧
            recordsOf o t .stopCue n = []) ∧
          ((o.ch n).playback ≠ .idle → t.ch n = { o.ch n with
              playback := .idle
              run := { (o.ch n).run with start := .none, startAt := none, next := none, owed := .nothing }
              pendingCues := 0
              hold := (o.ch n).settings.park } ∧
            Tells o t .stopCue n
              (some ⟨.stopCue, some n, none, none, o.dev.counter.setWidth 32⟩)))

/-- The six decisions, in their order. -/
def Obligations.CueDecisions : Prop :=
  ∀ (s : State) (n : Ch) (cue : Nat),
    let c := s.ch n
    let starts := c.playback = .armed ∧ c.run.start = .cue cue
    let ends := c.playback = .running ∧ c.run.phase = .waiting ∧ ∃ r, c.record = some r ∧ r.wait = some cue
    let leaves := c.playback = .running ∧ ∃ r, c.record = some r ∧ r.leave = some cue
    (c.playback = .idle → takeCue 0 n s = s.setCh n { c with pendingCues := 0 }) ∧
    (c.playback ≠ .idle → takeCue 0 n s = enterEvent .stopCue (some n) none none (s.setCh n { c with
      playback := .idle
      run := { c.run with start := .none, startAt := none, next := none, owed := .nothing }
      pendingCues := 0
      hold := c.settings.park })) ∧
    (cue ≠ 0 →
      (starts → takeCue cue n s = enterStep n 0 s) ∧
      (∀ r, ends → c.record = some r → takeCue cue n s = s.setCh n { c with run := { c.run with
        phase := match r.source with | .memory _ => .playing | .stream => .priming } }) ∧
      (¬ ends → leaves → takeCue cue n s = s.setCh n { c with run := { c.run with leave := true } }) ∧
      (¬ starts → ¬ ends → ¬ leaves →
        (cueIn c.mask cue = true → ∃ pend,
          takeCue cue n s = s.setCh n { c with pendingCues := pend } ∧
          ∀ k, cueIn pend k = (cueIn c.pendingCues k || decide (k = cue))) ∧
        (cueIn c.mask cue = false → takeCue cue n s = s)))

/-- The rows that tell a moment of a boundary are parts of SAMPLE_BOUNDARY: after any of them the boundary
ends as it would have without. A command that is no moment finds the boundary finished: the stages of one
boundary stand together (the model's reading of these rows, log entry 5; the finish takes the channels in
number order and defers nothing, log entries 6 and 7). -/
def Obligations.StagesMakeOneBoundary : Prop :=
  (∀ (n : Ch) (turns deferred : List Ch) (s t : State) (c : Instr),
    c ∈ [Instr.startTimeReached n turns, .primingMet n turns, .markerWidthEnd n turns,
      .cueEffectiveSample turns, .dividerSwitch turns] →
    exec c s = .next t →
    exec (.sampleBoundary turns deferred) t = exec (.sampleBoundary turns deferred) s) ∧
  ∀ (c : Instr) (s : State), tellsMoment c = false → beginsAfresh c = false → s.resetHeld = false →
    s.boundaryOpen = true →
    ∃ t, exec (.sampleBoundary [] []) s = .next t ∧ Between t ∧ exec c s = exec c t

/-- Stages 1 to 3: the interpolated value, the scaled value and the sum. -/
def Obligations.ValueFormingIsExact : Prop :=
  (∀ (a b : Int) (f : Nat), f ≤ 65535 →
    interpolate a b f = a + ⌊(((b - a) * f + 32768 : Int) : ℚ) / 65536⌋ ∧
    min a b ≤ interpolate a b f ∧ interpolate a b f ≤ max a b ∧
    interpolate a b 0 = a ∧ interpolate a a f = a) ∧
  (∀ v g : Int, -32768 ≤ v → v ≤ 32767 → -32768 ≤ g → g ≤ 32767 →
    applyGain v g = ⌊((v * g + 8192 : Int) : ℚ) / 16384⌋ ∧
    -65534 ≤ applyGain v g ∧ applyGain v g ≤ 65536 ∧
    applyGain v 16384 = v ∧ applyGain v 0 = 0 ∧ applyGain v (-16384) = -v ∧
    ∀ (o lmin lmax : Int) (p : ProtState), -32768 ≤ o → o ≤ 32767 →
      (formSample v g o p lmin lmax).u = applyGain v g + o ∧
      -98302 ≤ (formSample v g o p lmin lmax).u ∧ (formSample v g o p lmin lmax).u ≤ 98303 ∧
      (formSample v 0 o p lmin lmax).u = o) ∧
  applyGain (-32768) (-32768) = 65536 ∧ applyGain 32767 (-32768) = -65534

/-- Stages 4 to 6, and the unity path. -/
def Obligations.DeratingAndWindow : Prop :=
  ∀ (v g o lmin lmax : Int) (p : ProtState), lmin ≤ lmax →
    let x := formSample v g o p lmin lmax
    let us := max (-32768) (min x.u 32767)
    lmin ≤ x.c ∧ x.c ≤ lmax ∧
    (p ≠ .derated → x.d = us) ∧
    (p = .derated → -8192 ≤ x.d ∧ x.d ≤ 8191 ∧ x.d.natAbs = us.natAbs / 4 ∧ 0 ≤ x.d * us) ∧
    (clips x = true ↔ x.u < -32768 ∨ 32767 < x.u) ∧
    (limits x = true ↔ x.d < lmin ∨ lmax < x.d) ∧
    (p ≠ .derated → -32768 ≤ v → v ≤ 32767 →
      formSample v 16384 0 p (-32768) 32767 = ⟨v, v, v⟩)

/-- Every step keeps the store's canonical form, and every store word in exactly one segment or free
region. -/
def Obligations.SegmentTableKept : Prop :=
  KeptByStep (fun s => StoreOk s ∧ TableOk s)

/-- Every step keeps the step lists within their bounds, the reference counts equal to the steps naming each
segment, and no step naming an undefined one. -/
def Obligations.ListsAndReferencesKept : Prop :=
  KeptByStep (fun s => ListsOk s ∧ RefsOk s)

/-- Every step keeps the level and the debt of every buffer in range and never both above 0, each pending set
inside its mask, cue 0 out of both, and every hold code and park code in the channel's window. -/
def Obligations.StreamsPendingSetsAndWindowsKept : Prop :=
  KeptByStep (fun s => StreamOk s ∧ PendingOk s) ∧ KeptByStep WindowOk

/-- Every step keeps a running step played as it must be, and a memory step's position inside its segment, the
tables it rests on being good. -/
def Obligations.PositionsKept : Prop :=
  KeptByStep (fun s => TableOk s ∧ RefsOk s ∧ ListsOk s ∧ PositionOk s ∧ PlayedOk s)

/-- Every step keeps the queues within their sizes, the one cue 0 entry at the head or second behind a frame
in flight, and ATTN# as the mode in force says. -/
def Obligations.QueuesAndAttentionKept : Prop :=
  KeptByStep (fun s => QueuesOk s ∧ Cue0Ok s ∧ AttnOk s)

/-- Every step keeps the cue line: the idle timer at 2H only on an idle line, a report only for a line that reads
low, and for a frame in flight the drive of its phase, the levels it sends, and a receiver that has kept exactly
the bits sent. -/
def Obligations.LineKept : Prop :=
  KeptByStep LineOk

/-- Every step keeps a SHUT channel IDLE with its enable inactive, STBn held low exactly with RESET#, and
every channel DERATED or SHUT in LOCK. -/
def Obligations.ProtectionKept : Prop :=
  KeptByStep (fun s => ShutOk s ∧ StrobeOk s ∧ LockOk s)
end

