-- ==== Sys2Proof/Laws/State.lean ====
section
/-! SUPPORT. One lemma per field per block update of State, and what a channel's or a protection record's place holds after an update. -/

namespace Sys2Proof.Machine

variable (s : State)

/-! ### `State.setCh` -/

@[simp] theorem setCh_mem (n : Ch) (c : Channel) : (s.setCh n c).mem = s.mem := rfl
@[simp] theorem setCh_chans (n : Ch) (c : Channel) : (s.setCh n c).chans = s.chans.set n c := rfl
@[simp] theorem setCh_cue (n : Ch) (c : Channel) : (s.setCh n c).cue = s.cue := rfl
@[simp] theorem setCh_prot (n : Ch) (c : Channel) : (s.setCh n c).prot = s.prot := rfl
@[simp] theorem setCh_temp (n : Ch) (c : Channel) : (s.setCh n c).temp = s.temp := rfl
@[simp] theorem setCh_link (n : Ch) (c : Channel) : (s.setCh n c).link = s.link := rfl
@[simp] theorem setCh_events (n : Ch) (c : Channel) : (s.setCh n c).events = s.events := rfl
@[simp] theorem setCh_dev (n : Ch) (c : Channel) : (s.setCh n c).dev = s.dev := rfl
@[simp] theorem setCh_boundaryOpen (n : Ch) (c : Channel) : (s.setCh n c).boundaryOpen = s.boundaryOpen := rfl
@[simp] theorem setCh_resetHeld (n : Ch) (c : Channel) : (s.setCh n c).resetHeld = s.resetHeld := rfl
@[simp] theorem setCh_freeIndex (n : Ch) (c : Channel) : (s.setCh n c).freeIndex = s.freeIndex := rfl
@[simp] theorem setCh_pending (n : Ch) (c : Channel) : (s.setCh n c).pending = s.pending := rfl
@[simp] theorem setCh_pr (n : Ch) (c : Channel) (k : Ch) : (s.setCh n c).pr k = s.pr k := rfl

/-! ### `State.setPr` -/

@[simp] theorem setPr_mem (n : Ch) (p : Protection) : (s.setPr n p).mem = s.mem := rfl
@[simp] theorem setPr_chans (n : Ch) (p : Protection) : (s.setPr n p).chans = s.chans := rfl
@[simp] theorem setPr_cue (n : Ch) (p : Protection) : (s.setPr n p).cue = s.cue := rfl
@[simp] theorem setPr_prot (n : Ch) (p : Protection) : (s.setPr n p).prot = s.prot.set n p := rfl
@[simp] theorem setPr_temp (n : Ch) (p : Protection) : (s.setPr n p).temp = s.temp := rfl
@[simp] theorem setPr_link (n : Ch) (p : Protection) : (s.setPr n p).link = s.link := rfl
@[simp] theorem setPr_events (n : Ch) (p : Protection) : (s.setPr n p).events = s.events := rfl
@[simp] theorem setPr_dev (n : Ch) (p : Protection) : (s.setPr n p).dev = s.dev := rfl
@[simp] theorem setPr_boundaryOpen (n : Ch) (p : Protection) : (s.setPr n p).boundaryOpen = s.boundaryOpen := rfl
@[simp] theorem setPr_resetHeld (n : Ch) (p : Protection) : (s.setPr n p).resetHeld = s.resetHeld := rfl
@[simp] theorem setPr_freeIndex (n : Ch) (p : Protection) : (s.setPr n p).freeIndex = s.freeIndex := rfl
@[simp] theorem setPr_pending (n : Ch) (p : Protection) : (s.setPr n p).pending = s.pending := rfl
@[simp] theorem setPr_ch (n : Ch) (p : Protection) (k : Ch) : (s.setPr n p).ch k = s.ch k := rfl

/-! ### `State.setMem` -/

@[simp] theorem setMem_mem (m : SegMem) : (s.setMem m).mem = m := rfl
@[simp] theorem setMem_chans (m : SegMem) : (s.setMem m).chans = s.chans := rfl
@[simp] theorem setMem_cue (m : SegMem) : (s.setMem m).cue = s.cue := rfl
@[simp] theorem setMem_prot (m : SegMem) : (s.setMem m).prot = s.prot := rfl
@[simp] theorem setMem_temp (m : SegMem) : (s.setMem m).temp = s.temp := rfl
@[simp] theorem setMem_link (m : SegMem) : (s.setMem m).link = s.link := rfl
@[simp] theorem setMem_events (m : SegMem) : (s.setMem m).events = s.events := rfl
@[simp] theorem setMem_dev (m : SegMem) : (s.setMem m).dev = s.dev := rfl
@[simp] theorem setMem_boundaryOpen (m : SegMem) : (s.setMem m).boundaryOpen = s.boundaryOpen := rfl
@[simp] theorem setMem_resetHeld (m : SegMem) : (s.setMem m).resetHeld = s.resetHeld := rfl
@[simp] theorem setMem_freeIndex (m : SegMem) : (s.setMem m).freeIndex = s.freeIndex := rfl
@[simp] theorem setMem_pending (m : SegMem) : (s.setMem m).pending = s.pending := rfl
@[simp] theorem setMem_ch (m : SegMem) (k : Ch) : (s.setMem m).ch k = s.ch k := rfl
@[simp] theorem setMem_pr (m : SegMem) (k : Ch) : (s.setMem m).pr k = s.pr k := rfl

/-! ### `State.setCue` -/

@[simp] theorem setCue_mem (c : CueController) : (s.setCue c).mem = s.mem := rfl
@[simp] theorem setCue_chans (c : CueController) : (s.setCue c).chans = s.chans := rfl
@[simp] theorem setCue_cue (c : CueController) : (s.setCue c).cue = c := rfl
@[simp] theorem setCue_prot (c : CueController) : (s.setCue c).prot = s.prot := rfl
@[simp] theorem setCue_temp (c : CueController) : (s.setCue c).temp = s.temp := rfl
@[simp] theorem setCue_link (c : CueController) : (s.setCue c).link = s.link := rfl
@[simp] theorem setCue_events (c : CueController) : (s.setCue c).events = s.events := rfl
@[simp] theorem setCue_dev (c : CueController) : (s.setCue c).dev = s.dev := rfl
@[simp] theorem setCue_boundaryOpen (c : CueController) : (s.setCue c).boundaryOpen = s.boundaryOpen := rfl
@[simp] theorem setCue_resetHeld (c : CueController) : (s.setCue c).resetHeld = s.resetHeld := rfl
@[simp] theorem setCue_freeIndex (c : CueController) : (s.setCue c).freeIndex = s.freeIndex := rfl
@[simp] theorem setCue_pending (c : CueController) : (s.setCue c).pending = s.pending := rfl
@[simp] theorem setCue_ch (c : CueController) (k : Ch) : (s.setCue c).ch k = s.ch k := rfl
@[simp] theorem setCue_pr (c : CueController) (k : Ch) : (s.setCue c).pr k = s.pr k := rfl

/-! ### `State.setTemp` -/

@[simp] theorem setTemp_mem (d : DieTemp) : (s.setTemp d).mem = s.mem := rfl
@[simp] theorem setTemp_chans (d : DieTemp) : (s.setTemp d).chans = s.chans := rfl
@[simp] theorem setTemp_cue (d : DieTemp) : (s.setTemp d).cue = s.cue := rfl
@[simp] theorem setTemp_prot (d : DieTemp) : (s.setTemp d).prot = s.prot := rfl
@[simp] theorem setTemp_temp (d : DieTemp) : (s.setTemp d).temp = d := rfl
@[simp] theorem setTemp_link (d : DieTemp) : (s.setTemp d).link = s.link := rfl
@[simp] theorem setTemp_events (d : DieTemp) : (s.setTemp d).events = s.events := rfl
@[simp] theorem setTemp_dev (d : DieTemp) : (s.setTemp d).dev = s.dev := rfl
@[simp] theorem setTemp_boundaryOpen (d : DieTemp) : (s.setTemp d).boundaryOpen = s.boundaryOpen := rfl
@[simp] theorem setTemp_resetHeld (d : DieTemp) : (s.setTemp d).resetHeld = s.resetHeld := rfl
@[simp] theorem setTemp_freeIndex (d : DieTemp) : (s.setTemp d).freeIndex = s.freeIndex := rfl
@[simp] theorem setTemp_pending (d : DieTemp) : (s.setTemp d).pending = s.pending := rfl
@[simp] theorem setTemp_ch (d : DieTemp) (k : Ch) : (s.setTemp d).ch k = s.ch k := rfl
@[simp] theorem setTemp_pr (d : DieTemp) (k : Ch) : (s.setTemp d).pr k = s.pr k := rfl

/-! ### `State.setLink` -/

@[simp] theorem setLink_mem (l : Link) : (s.setLink l).mem = s.mem := rfl
@[simp] theorem setLink_chans (l : Link) : (s.setLink l).chans = s.chans := rfl
@[simp] theorem setLink_cue (l : Link) : (s.setLink l).cue = s.cue := rfl
@[simp] theorem setLink_prot (l : Link) : (s.setLink l).prot = s.prot := rfl
@[simp] theorem setLink_temp (l : Link) : (s.setLink l).temp = s.temp := rfl
@[simp] theorem setLink_link (l : Link) : (s.setLink l).link = l := rfl
@[simp] theorem setLink_events (l : Link) : (s.setLink l).events = s.events := rfl
@[simp] theorem setLink_dev (l : Link) : (s.setLink l).dev = s.dev := rfl
@[simp] theorem setLink_boundaryOpen (l : Link) : (s.setLink l).boundaryOpen = s.boundaryOpen := rfl
@[simp] theorem setLink_resetHeld (l : Link) : (s.setLink l).resetHeld = s.resetHeld := rfl
@[simp] theorem setLink_freeIndex (l : Link) : (s.setLink l).freeIndex = s.freeIndex := rfl
@[simp] theorem setLink_pending (l : Link) : (s.setLink l).pending = s.pending := rfl
@[simp] theorem setLink_ch (l : Link) (k : Ch) : (s.setLink l).ch k = s.ch k := rfl
@[simp] theorem setLink_pr (l : Link) (k : Ch) : (s.setLink l).pr k = s.pr k := rfl

/-! ### `State.setEvents` -/

@[simp] theorem setEvents_mem (e : EventQueue) : (s.setEvents e).mem = s.mem := rfl
@[simp] theorem setEvents_chans (e : EventQueue) : (s.setEvents e).chans = s.chans := rfl
@[simp] theorem setEvents_cue (e : EventQueue) : (s.setEvents e).cue = s.cue := rfl
@[simp] theorem setEvents_prot (e : EventQueue) : (s.setEvents e).prot = s.prot := rfl
@[simp] theorem setEvents_temp (e : EventQueue) : (s.setEvents e).temp = s.temp := rfl
@[simp] theorem setEvents_link (e : EventQueue) : (s.setEvents e).link = s.link := rfl
@[simp] theorem setEvents_events (e : EventQueue) : (s.setEvents e).events = e := rfl
@[simp] theorem setEvents_dev (e : EventQueue) : (s.setEvents e).dev = s.dev := rfl
@[simp] theorem setEvents_boundaryOpen (e : EventQueue) : (s.setEvents e).boundaryOpen = s.boundaryOpen := rfl
@[simp] theorem setEvents_resetHeld (e : EventQueue) : (s.setEvents e).resetHeld = s.resetHeld := rfl
@[simp] theorem setEvents_freeIndex (e : EventQueue) : (s.setEvents e).freeIndex = s.freeIndex := rfl
@[simp] theorem setEvents_pending (e : EventQueue) : (s.setEvents e).pending = s.pending := rfl
@[simp] theorem setEvents_ch (e : EventQueue) (k : Ch) : (s.setEvents e).ch k = s.ch k := rfl
@[simp] theorem setEvents_pr (e : EventQueue) (k : Ch) : (s.setEvents e).pr k = s.pr k := rfl

/-! ### `State.setDev` -/

@[simp] theorem setDev_mem (d : Device) : (s.setDev d).mem = s.mem := rfl
@[simp] theorem setDev_chans (d : Device) : (s.setDev d).chans = s.chans := rfl
@[simp] theorem setDev_cue (d : Device) : (s.setDev d).cue = s.cue := rfl
@[simp] theorem setDev_prot (d : Device) : (s.setDev d).prot = s.prot := rfl
@[simp] theorem setDev_temp (d : Device) : (s.setDev d).temp = s.temp := rfl
@[simp] theorem setDev_link (d : Device) : (s.setDev d).link = s.link := rfl
@[simp] theorem setDev_events (d : Device) : (s.setDev d).events = s.events := rfl
@[simp] theorem setDev_dev (d : Device) : (s.setDev d).dev = d := rfl
@[simp] theorem setDev_boundaryOpen (d : Device) : (s.setDev d).boundaryOpen = s.boundaryOpen := rfl
@[simp] theorem setDev_resetHeld (d : Device) : (s.setDev d).resetHeld = s.resetHeld := rfl
@[simp] theorem setDev_freeIndex (d : Device) : (s.setDev d).freeIndex = s.freeIndex := rfl
@[simp] theorem setDev_pending (d : Device) : (s.setDev d).pending = s.pending := rfl
@[simp] theorem setDev_ch (d : Device) (k : Ch) : (s.setDev d).ch k = s.ch k := rfl
@[simp] theorem setDev_pr (d : Device) (k : Ch) : (s.setDev d).pr k = s.pr k := rfl

/-! ### `State.setOpen` -/

@[simp] theorem setOpen_mem (b : Bool) : (s.setOpen b).mem = s.mem := rfl
@[simp] theorem setOpen_chans (b : Bool) : (s.setOpen b).chans = s.chans := rfl
@[simp] theorem setOpen_cue (b : Bool) : (s.setOpen b).cue = s.cue := rfl
@[simp] theorem setOpen_prot (b : Bool) : (s.setOpen b).prot = s.prot := rfl
@[simp] theorem setOpen_temp (b : Bool) : (s.setOpen b).temp = s.temp := rfl
@[simp] theorem setOpen_link (b : Bool) : (s.setOpen b).link = s.link := rfl
@[simp] theorem setOpen_events (b : Bool) : (s.setOpen b).events = s.events := rfl
@[simp] theorem setOpen_dev (b : Bool) : (s.setOpen b).dev = s.dev := rfl
@[simp] theorem setOpen_boundaryOpen (b : Bool) : (s.setOpen b).boundaryOpen = b := rfl
@[simp] theorem setOpen_resetHeld (b : Bool) : (s.setOpen b).resetHeld = s.resetHeld := rfl
@[simp] theorem setOpen_freeIndex (b : Bool) : (s.setOpen b).freeIndex = s.freeIndex := rfl
@[simp] theorem setOpen_pending (b : Bool) : (s.setOpen b).pending = s.pending := rfl
@[simp] theorem setOpen_ch (b : Bool) (k : Ch) : (s.setOpen b).ch k = s.ch k := rfl
@[simp] theorem setOpen_pr (b : Bool) (k : Ch) : (s.setOpen b).pr k = s.pr k := rfl

/-! ### `State.drawFree` -/

@[simp] theorem drawFree_mem : s.drawFree.mem = s.mem := rfl
@[simp] theorem drawFree_chans : s.drawFree.chans = s.chans := rfl
@[simp] theorem drawFree_cue : s.drawFree.cue = s.cue := rfl
@[simp] theorem drawFree_prot : s.drawFree.prot = s.prot := rfl
@[simp] theorem drawFree_temp : s.drawFree.temp = s.temp := rfl
@[simp] theorem drawFree_link : s.drawFree.link = s.link := rfl
@[simp] theorem drawFree_events : s.drawFree.events = s.events := rfl
@[simp] theorem drawFree_dev : s.drawFree.dev = s.dev := rfl
@[simp] theorem drawFree_boundaryOpen : s.drawFree.boundaryOpen = s.boundaryOpen := rfl
@[simp] theorem drawFree_resetHeld : s.drawFree.resetHeld = s.resetHeld := rfl
@[simp] theorem drawFree_freeIndex : s.drawFree.freeIndex = s.freeIndex + 1 := rfl
@[simp] theorem drawFree_pending : s.drawFree.pending = s.pending := rfl
@[simp] theorem drawFree_ch (k : Ch) : s.drawFree.ch k = s.ch k := rfl
@[simp] theorem drawFree_pr (k : Ch) : s.drawFree.pr k = s.pr k := rfl

/-! ### Channels and protection records -/

@[simp] theorem quad_get_set_same {α : Type} (q : Quad α) (n : Ch) (a : α) : (q.set n a).get n = a := by
  cases n <;> rfl

theorem quad_get_set_ne {α : Type} (q : Quad α) {n k : Ch} (a : α) (h : k ≠ n) :
    (q.set n a).get k = q.get k := by
  cases n <;> cases k <;> first | rfl | exact absurd rfl h

theorem quad_ext {α : Type} {q r : Quad α} (h : ∀ n, q.get n = r.get n) : q = r := by
  cases q; cases r
  have h0 := h .ch0
  have h1 := h .ch1
  have h2 := h .ch2
  have h3 := h .ch3
  simp_all [Quad.get]

@[simp] theorem ch_setCh_same (n : Ch) (c : Channel) : (s.setCh n c).ch n = c :=
  quad_get_set_same s.chans n c

theorem ch_setCh_ne {n k : Ch} (c : Channel) (h : k ≠ n) : (s.setCh n c).ch k = s.ch k :=
  quad_get_set_ne s.chans c h

@[simp] theorem pr_setPr_same (n : Ch) (p : Protection) : (s.setPr n p).pr n = p :=
  quad_get_set_same s.prot n p

theorem pr_setPr_ne {n k : Ch} (p : Protection) (h : k ≠ n) : (s.setPr n p).pr k = s.pr k :=
  quad_get_set_ne s.prot p h

/-- What any channel is after one channel was replaced. -/
theorem ch_setCh (n k : Ch) (c : Channel) : (s.setCh n c).ch k = if k = n then c else s.ch k := by
  by_cases h : k = n
  · subst h; simp
  · simp [ch_setCh_ne s c h, h]

/-- What any protection record is after one was replaced. -/
theorem pr_setPr (n k : Ch) (p : Protection) : (s.setPr n p).pr k = if k = n then p else s.pr k := by
  by_cases h : k = n
  · subst h; simp
  · simp [pr_setPr_ne s p h, h]

end Sys2Proof.Machine
end

