-- ==== Sys2Proof/Laws/Ops.lean ====
section
/-! SUPPORT. What each shared operation can do: one lemma per operation that says it once, and the fields it leaves alone. -/

namespace Sys2Proof.Machine

/-! ### `live`, `between` and `eachCh` -/

theorem live_held {f : State → State} {s : State} (h : s.resetHeld = true) : live f s = s := by
  simp [live, h]

theorem live_running {f : State → State} {s : State} (h : s.resetHeld = false) : live f s = f s := by
  simp [live, h]

@[simp] theorem sampleBoundary_boundaryOpen (turns deferred : List Ch) (s : State) :
    (sampleBoundary turns deferred s).boundaryOpen = false := rfl

theorem finishBoundary_closed {s : State} (h : s.boundaryOpen = false) : finishBoundary s = s := by
  simp [finishBoundary, h]

theorem finishBoundary_opened {s : State} (h : s.boundaryOpen = true) :
    finishBoundary s = sampleBoundary [] [] s := by
  simp [finishBoundary, h]

/-- After its finish no boundary stands open. -/
@[simp] theorem finishBoundary_boundaryOpen (s : State) : (finishBoundary s).boundaryOpen = false := by
  by_cases h : s.boundaryOpen = true
  · simp [finishBoundary_opened h]
  · have h : s.boundaryOpen = false := by simpa using h
    rw [finishBoundary_closed h, h]

/-- Every command that is no moment of a boundary: nothing while RESET# is held low, else its effect on the
state as it stands between two boundaries, a boundary that stood open being finished first. -/
theorem between_cases (f : State → State) (s : State) :
    (s.resetHeld = true ∧ between f s = s) ∨
      (s.resetHeld = false ∧ s.boundaryOpen = false ∧ between f s = f s) ∨
      (s.resetHeld = false ∧ s.boundaryOpen = true ∧ between f s = f (sampleBoundary [] [] s)) := by
  by_cases hr : s.resetHeld = true
  · exact .inl ⟨hr, by simp [between, hr]⟩
  · have hr : s.resetHeld = false := by simpa using hr
    by_cases ho : s.boundaryOpen = true
    · exact .inr (.inr ⟨hr, ho, by simp [between, hr, finishBoundary_opened ho]⟩)
    · have ho : s.boundaryOpen = false := by simpa using ho
      exact .inr (.inl ⟨hr, ho, by simp [between, hr, finishBoundary_closed ho]⟩)

theorem between_held {f : State → State} {s : State} (h : s.resetHeld = true) : between f s = s := by
  simp [between, h]

theorem between_closed {f : State → State} {s : State} (hr : s.resetHeld = false)
    (ho : s.boundaryOpen = false) : between f s = f s := by
  simp [between, hr, finishBoundary_closed ho]

/-- What a sample boundary keeps and the effect keeps between two boundaries, the command keeps. -/
theorem between_keeps {P : State → Prop} (hb : ∀ s, P s → P (sampleBoundary [] [] s))
    {f : State → State} (hf : ∀ s, s.boundaryOpen = false → P s → P (f s)) {s : State} (hs : P s) :
    P (between f s) := by
  obtain ⟨-, e⟩ | ⟨-, ho, e⟩ | ⟨-, -, e⟩ := between_cases f s <;> rw [e]
  · exact hs
  · exact hf s ho hs
  · exact hf _ rfl (hb s hs)

/-- What each operation keeps, the operations on a list of channels keep. -/
theorem eachCh_keeps {P : State → Prop} {f : Ch → State → State} (hf : ∀ n t, P t → P (f n t)) :
    ∀ (l : List Ch) (s : State), P s → P (eachCh l f s)
  | [], _, hs => hs
  | n :: l, s, hs => eachCh_keeps hf l (f n s) (hf n s hs)

/-- As `eachCh_keeps`, for operations on the channels of the list alone. -/
theorem eachCh_keeps_mem {P : State → Prop} {f : Ch → State → State} {l : List Ch}
    (hf : ∀ n ∈ l, ∀ t, P t → P (f n t)) {s : State} (hs : P s) : P (eachCh l f s) := by
  induction l generalizing s with
  | nil => exact hs
  | cons n l ih =>
    exact ih (fun k hk => hf k (List.mem_cons_of_mem _ hk)) (hf n (by simp) s hs)

@[simp] theorem eachCh_nil (f : Ch → State → State) (s : State) : eachCh [] f s = s := rfl
@[simp] theorem eachCh_cons (n : Ch) (l : List Ch) (f : Ch → State → State) (s : State) :
    eachCh (n :: l) f s = eachCh l f (f n s) := rfl

theorem eachCh_append (l r : List Ch) (f : Ch → State → State) (s : State) :
    eachCh (l ++ r) f s = eachCh r f (eachCh l f s) := by
  simp [eachCh]

/-- Every channel is taken at a boundary. -/
theorem mem_channelOrder (turns : List Ch) (n : Ch) : n ∈ channelOrder turns := by
  have hn : n ∈ allCh := by cases n <;> decide
  by_cases h : n ∈ turns
  · exact List.mem_append.mpr (.inl (List.mem_dedup.mpr h))
  · refine List.mem_append.mpr (.inr (List.mem_filter.mpr ⟨hn, ?_⟩))
    simpa using h

/-- No channel is taken twice at a boundary. -/
theorem channelOrder_nodup (turns : List Ch) : (channelOrder turns).Nodup := by
  refine List.nodup_append.mpr ⟨List.nodup_dedup _, List.Nodup.filter _ (by decide), ?_⟩
  intro a ha b hb hab
  have := (List.mem_filter.mp hb).2
  subst hab
  simp_all

/-! ### Events -/

/-- A record offered: entered at the tail with ATTN# asserted, or discarded at a full queue. -/
theorem offerEvent_cases (e : Event) (mode : AttnMode) (q : EventQueue) :
    (32 ≤ q.records.length ∧ offerEvent e mode q = { q with lost := true }) ∨
      (q.records.length < 32 ∧ (offerEvent e mode q).records = q.records ++ [e] ∧
        (offerEvent e mode q).lost = q.lost ∧ (offerEvent e mode q).attn = true ∧
        (mode = .pulse → (offerEvent e mode q).pulse = true) ∧
        (mode = .level → (offerEvent e mode q).pulse = q.pulse)) := by
  by_cases h : 32 ≤ q.records.length
  · exact .inl ⟨h, if_pos h⟩
  · refine .inr ⟨by omega, ?_⟩
    rw [offerEvent, if_neg h]
    cases mode <;> simp

/-- The queue never grows past 32 records. -/
theorem offerEvent_length {e : Event} {mode : AttnMode} {q : EventQueue} (h : q.records.length ≤ 32) :
    (offerEvent e mode q).records.length ≤ 32 := by
  obtain ⟨-, he⟩ | ⟨hlt, he, -⟩ := offerEvent_cases e mode q
  · rw [he]; exact h
  · rw [he]; simpa using hlt

section EnterEvent
variable (k : EventKind) (c : Option Ch) (i : Option Nat) (v : Option Word) (s : State)

@[simp] theorem enterEvent_mem : (enterEvent k c i v s).mem = s.mem := rfl
@[simp] theorem enterEvent_chans : (enterEvent k c i v s).chans = s.chans := rfl
@[simp] theorem enterEvent_cue : (enterEvent k c i v s).cue = s.cue := rfl
@[simp] theorem enterEvent_prot : (enterEvent k c i v s).prot = s.prot := rfl
@[simp] theorem enterEvent_temp : (enterEvent k c i v s).temp = s.temp := rfl
@[simp] theorem enterEvent_link : (enterEvent k c i v s).link = s.link := rfl
@[simp] theorem enterEvent_events : (enterEvent k c i v s).events =
    offerEvent ⟨k, c, i, v, stampOf s.dev.counter⟩ s.dev.attnMode s.events := rfl
@[simp] theorem enterEvent_dev : (enterEvent k c i v s).dev = s.dev := rfl
@[simp] theorem enterEvent_boundaryOpen : (enterEvent k c i v s).boundaryOpen = s.boundaryOpen := rfl
@[simp] theorem enterEvent_resetHeld : (enterEvent k c i v s).resetHeld = s.resetHeld := rfl
@[simp] theorem enterEvent_freeIndex : (enterEvent k c i v s).freeIndex = s.freeIndex := rfl
@[simp] theorem enterEvent_pending : (enterEvent k c i v s).pending = s.pending := rfl
@[simp] theorem enterEvent_ch (n : Ch) : (enterEvent k c i v s).ch n = s.ch n := rfl
@[simp] theorem enterEvent_pr (n : Ch) : (enterEvent k c i v s).pr n = s.pr n := rfl

end EnterEvent

/-! ### The send queue -/

/-- Placing an entry makes the queue one longer. -/
theorem placeEntry_length (e : SendEntry) (b : Bool) (q : List SendEntry) :
    (placeEntry e b q).length = q.length + 1 := by
  unfold placeEntry
  split
  · split <;> simp
  · simp

/-- An entry placed is the new one or one of the old. -/
theorem mem_placeEntry {e x : SendEntry} {b : Bool} {q : List SendEntry} :
    x ∈ placeEntry e b q ↔ x = e ∨ x ∈ q := by
  unfold placeEntry
  split
  · split
    · simp; tauto
    · simp
  · simp; tauto

/-- A push that is added found room, and is not a second cue 0. -/
theorem pushVerdict_added {cue : Nat} {q : List SendEntry} (h : pushVerdict cue q = .added) :
    q.length < 8 ∧ (cue = 0 → holdsCue0 q = false) := by
  simp only [pushVerdict] at h
  split at h
  · cases h
  · split at h
    · cases h
    · constructor
      · have : ¬ 8 ≤ q.length := by assumption
        omega
      · intro hc
        simp_all

/-- A push: the entry placed, or the state as it was. -/
theorem pushCue_cases (cue : Nat) (src : CueSource) (s : State) :
    (pushVerdict cue s.cue.sendQ = .added ∧
      pushCue cue src s = s.setCue { s.cue with
        sendQ := placeEntry ⟨cue, src, 0⟩ s.cue.inFlight.isSome s.cue.sendQ }) ∨
      (pushVerdict cue s.cue.sendQ ≠ .added ∧ pushCue cue src s = s) := by
  unfold pushCue
  split
  · exact .inl ⟨by assumption, rfl⟩
  · exact .inr ⟨by assumption, rfl⟩

/-- A push without a reply: CUE_DROPPED at a full queue, else the push. -/
theorem pushOrDrop_cases (cue : Nat) (src : CueSource) (s : State) :
    (pushVerdict cue s.cue.sendQ = .full ∧
      pushOrDrop cue src s =
        enterEvent .cueDropped src.channel src.step (some (cueSourceValue cue src)) s) ∨
      (pushVerdict cue s.cue.sendQ ≠ .full ∧ pushOrDrop cue src s = pushCue cue src s) := by
  unfold pushOrDrop
  split
  · exact .inl ⟨by assumption, rfl⟩
  · exact .inr ⟨by assumption, rfl⟩

@[simp] theorem pushCue_mem (cue : Nat) (src : CueSource) (s : State) :
    (pushCue cue src s).mem = s.mem := by
  obtain ⟨-, h⟩ | ⟨-, h⟩ := pushCue_cases cue src s <;> simp [h]
@[simp] theorem pushCue_chans (cue : Nat) (src : CueSource) (s : State) :
    (pushCue cue src s).chans = s.chans := by
  obtain ⟨-, h⟩ | ⟨-, h⟩ := pushCue_cases cue src s <;> simp [h]
@[simp] theorem pushCue_prot (cue : Nat) (src : CueSource) (s : State) :
    (pushCue cue src s).prot = s.prot := by
  obtain ⟨-, h⟩ | ⟨-, h⟩ := pushCue_cases cue src s <;> simp [h]
@[simp] theorem pushCue_temp (cue : Nat) (src : CueSource) (s : State) :
    (pushCue cue src s).temp = s.temp := by
  obtain ⟨-, h⟩ | ⟨-, h⟩ := pushCue_cases cue src s <;> simp [h]
@[simp] theorem pushCue_link (cue : Nat) (src : CueSource) (s : State) :
    (pushCue cue src s).link = s.link := by
  obtain ⟨-, h⟩ | ⟨-, h⟩ := pushCue_cases cue src s <;> simp [h]
@[simp] theorem pushCue_events (cue : Nat) (src : CueSource) (s : State) :
    (pushCue cue src s).events = s.events := by
  obtain ⟨-, h⟩ | ⟨-, h⟩ := pushCue_cases cue src s <;> simp [h]
@[simp] theorem pushCue_dev (cue : Nat) (src : CueSource) (s : State) :
    (pushCue cue src s).dev = s.dev := by
  obtain ⟨-, h⟩ | ⟨-, h⟩ := pushCue_cases cue src s <;> simp [h]
@[simp] theorem pushCue_boundaryOpen (cue : Nat) (src : CueSource) (s : State) :
    (pushCue cue src s).boundaryOpen = s.boundaryOpen := by
  obtain ⟨-, h⟩ | ⟨-, h⟩ := pushCue_cases cue src s <;> simp [h]
@[simp] theorem pushCue_resetHeld (cue : Nat) (src : CueSource) (s : State) :
    (pushCue cue src s).resetHeld = s.resetHeld := by
  obtain ⟨-, h⟩ | ⟨-, h⟩ := pushCue_cases cue src s <;> simp [h]
@[simp] theorem pushCue_freeIndex (cue : Nat) (src : CueSource) (s : State) :
    (pushCue cue src s).freeIndex = s.freeIndex := by
  obtain ⟨-, h⟩ | ⟨-, h⟩ := pushCue_cases cue src s <;> simp [h]
@[simp] theorem pushCue_pending (cue : Nat) (src : CueSource) (s : State) :
    (pushCue cue src s).pending = s.pending := by
  obtain ⟨-, h⟩ | ⟨-, h⟩ := pushCue_cases cue src s <;> simp [h]
@[simp] theorem pushOrDrop_mem (cue : Nat) (src : CueSource) (s : State) :
    (pushOrDrop cue src s).mem = s.mem := by
  obtain ⟨-, h⟩ | ⟨-, h⟩ := pushOrDrop_cases cue src s <;> rw [h] <;> simp
@[simp] theorem pushOrDrop_chans (cue : Nat) (src : CueSource) (s : State) :
    (pushOrDrop cue src s).chans = s.chans := by
  obtain ⟨-, h⟩ | ⟨-, h⟩ := pushOrDrop_cases cue src s <;> rw [h] <;> simp
@[simp] theorem pushOrDrop_prot (cue : Nat) (src : CueSource) (s : State) :
    (pushOrDrop cue src s).prot = s.prot := by
  obtain ⟨-, h⟩ | ⟨-, h⟩ := pushOrDrop_cases cue src s <;> rw [h] <;> simp
@[simp] theorem pushOrDrop_temp (cue : Nat) (src : CueSource) (s : State) :
    (pushOrDrop cue src s).temp = s.temp := by
  obtain ⟨-, h⟩ | ⟨-, h⟩ := pushOrDrop_cases cue src s <;> rw [h] <;> simp
@[simp] theorem pushOrDrop_link (cue : Nat) (src : CueSource) (s : State) :
    (pushOrDrop cue src s).link = s.link := by
  obtain ⟨-, h⟩ | ⟨-, h⟩ := pushOrDrop_cases cue src s <;> rw [h] <;> simp
@[simp] theorem pushOrDrop_dev (cue : Nat) (src : CueSource) (s : State) :
    (pushOrDrop cue src s).dev = s.dev := by
  obtain ⟨-, h⟩ | ⟨-, h⟩ := pushOrDrop_cases cue src s <;> rw [h] <;> simp
@[simp] theorem pushOrDrop_boundaryOpen (cue : Nat) (src : CueSource) (s : State) :
    (pushOrDrop cue src s).boundaryOpen = s.boundaryOpen := by
  obtain ⟨-, h⟩ | ⟨-, h⟩ := pushOrDrop_cases cue src s <;> rw [h] <;> simp
@[simp] theorem pushOrDrop_resetHeld (cue : Nat) (src : CueSource) (s : State) :
    (pushOrDrop cue src s).resetHeld = s.resetHeld := by
  obtain ⟨-, h⟩ | ⟨-, h⟩ := pushOrDrop_cases cue src s <;> rw [h] <;> simp
@[simp] theorem pushOrDrop_freeIndex (cue : Nat) (src : CueSource) (s : State) :
    (pushOrDrop cue src s).freeIndex = s.freeIndex := by
  obtain ⟨-, h⟩ | ⟨-, h⟩ := pushOrDrop_cases cue src s <;> rw [h] <;> simp
@[simp] theorem pushOrDrop_pending (cue : Nat) (src : CueSource) (s : State) :
    (pushOrDrop cue src s).pending = s.pending := by
  obtain ⟨-, h⟩ | ⟨-, h⟩ := pushOrDrop_cases cue src s <;> rw [h] <;> simp
@[simp] theorem pushOrDrop_ch (cue : Nat) (src : CueSource) (s : State) (n : Ch) :
    (pushOrDrop cue src s).ch n = s.ch n := by
  simp [State.ch]
@[simp] theorem pushOrDrop_pr (cue : Nat) (src : CueSource) (s : State) (n : Ch) :
    (pushOrDrop cue src s).pr n = s.pr n := by
  simp [State.pr]

/-- A lost attempt: no entry to count it against, the entry removed with CUE_LOST, or the entry kept. -/
theorem loseAttempt_cases (s : State) :
    (s.cue.sendQ = [] ∧ loseAttempt s = s.setCue { s.cue with inFlight := none }) ∨
      (∃ h rest, s.cue.sendQ = h :: rest ∧ 4 ≤ h.attempts + 1 ∧
        loseAttempt s =
          enterEvent .cueLost h.source.channel h.source.step (some (cueSourceValue h.cue h.source))
            (s.setCue { s.cue with inFlight := none, sendQ := rest })) ∨
      (∃ h rest, s.cue.sendQ = h :: rest ∧ h.attempts + 1 < 4 ∧
        loseAttempt s = s.setCue { s.cue with
          inFlight := none
          sendQ := yieldToCue0 ({ h with attempts := h.attempts + 1 } :: rest) }) := by
  unfold loseAttempt
  split
  · exact .inl ⟨by assumption, rfl⟩
  · rename_i h rest hq
    by_cases h4 : 4 ≤ h.attempts + 1
    · exact .inr (.inl ⟨h, rest, hq, h4, if_pos h4⟩)
    · exact .inr (.inr ⟨h, rest, hq, by omega, if_neg h4⟩)

@[simp] theorem loseAttempt_mem (s : State) : (loseAttempt s).mem = s.mem := by
  obtain ⟨-, e⟩ | ⟨_, _, -, -, e⟩ | ⟨_, _, -, -, e⟩ := loseAttempt_cases s <;> rw [e] <;> rfl
@[simp] theorem loseAttempt_chans (s : State) : (loseAttempt s).chans = s.chans := by
  obtain ⟨-, e⟩ | ⟨_, _, -, -, e⟩ | ⟨_, _, -, -, e⟩ := loseAttempt_cases s <;> rw [e] <;> rfl
@[simp] theorem loseAttempt_prot (s : State) : (loseAttempt s).prot = s.prot := by
  obtain ⟨-, e⟩ | ⟨_, _, -, -, e⟩ | ⟨_, _, -, -, e⟩ := loseAttempt_cases s <;> rw [e] <;> rfl
@[simp] theorem loseAttempt_temp (s : State) : (loseAttempt s).temp = s.temp := by
  obtain ⟨-, e⟩ | ⟨_, _, -, -, e⟩ | ⟨_, _, -, -, e⟩ := loseAttempt_cases s <;> rw [e] <;> rfl
@[simp] theorem loseAttempt_link (s : State) : (loseAttempt s).link = s.link := by
  obtain ⟨-, e⟩ | ⟨_, _, -, -, e⟩ | ⟨_, _, -, -, e⟩ := loseAttempt_cases s <;> rw [e] <;> rfl
@[simp] theorem loseAttempt_dev (s : State) : (loseAttempt s).dev = s.dev := by
  obtain ⟨-, e⟩ | ⟨_, _, -, -, e⟩ | ⟨_, _, -, -, e⟩ := loseAttempt_cases s <;> rw [e] <;> rfl
@[simp] theorem loseAttempt_boundaryOpen (s : State) : (loseAttempt s).boundaryOpen = s.boundaryOpen := by
  obtain ⟨-, e⟩ | ⟨_, _, -, -, e⟩ | ⟨_, _, -, -, e⟩ := loseAttempt_cases s <;> rw [e] <;> rfl
@[simp] theorem loseAttempt_resetHeld (s : State) : (loseAttempt s).resetHeld = s.resetHeld := by
  obtain ⟨-, e⟩ | ⟨_, _, -, -, e⟩ | ⟨_, _, -, -, e⟩ := loseAttempt_cases s <;> rw [e] <;> rfl
@[simp] theorem loseAttempt_freeIndex (s : State) : (loseAttempt s).freeIndex = s.freeIndex := by
  obtain ⟨-, e⟩ | ⟨_, _, -, -, e⟩ | ⟨_, _, -, -, e⟩ := loseAttempt_cases s <;> rw [e] <;> rfl
@[simp] theorem loseAttempt_pending (s : State) : (loseAttempt s).pending = s.pending := by
  obtain ⟨-, e⟩ | ⟨_, _, -, -, e⟩ | ⟨_, _, -, -, e⟩ := loseAttempt_cases s <;> rw [e] <;> rfl

/-- Moving a cue 0 entry ahead keeps the queue's length. -/
@[simp] theorem yieldToCue0_length (q : List SendEntry) : (yieldToCue0 q).length = q.length := by
  unfold yieldToCue0
  split
  · split <;> simp
  · rfl

/-! ### Playback changes -/

@[simp] theorem toIdle_playback (c : Channel) : c.toIdle.playback = .idle := rfl
@[simp] theorem toIdle_pendingCues (c : Channel) : c.toIdle.pendingCues = 0 := rfl
@[simp] theorem toIdle_hold (c : Channel) : c.toIdle.hold = c.settings.park := rfl
@[simp] theorem toIdle_list (c : Channel) : c.toIdle.list = c.list := rfl
@[simp] theorem toIdle_stream (c : Channel) : c.toIdle.stream = c.stream := rfl
@[simp] theorem toIdle_settings (c : Channel) : c.toIdle.settings = c.settings := rfl
@[simp] theorem toIdle_mask (c : Channel) : c.toIdle.mask = c.mask := rfl
@[simp] theorem toDone_playback (c : Channel) : c.toDone.playback = .done := rfl
@[simp] theorem toDone_list (c : Channel) : c.toDone.list = c.list := rfl
@[simp] theorem toDone_stream (c : Channel) : c.toDone.stream = c.stream := rfl
@[simp] theorem toDone_settings (c : Channel) : c.toDone.settings = c.settings := rfl
@[simp] theorem toDone_mask (c : Channel) : c.toDone.mask = c.mask := rfl
@[simp] theorem toDone_pendingCues (c : Channel) : c.toDone.pendingCues = c.pendingCues := rfl
@[simp] theorem arm_playback (c : Channel) (st : StartCond) (b : Option Counter) :
    (c.arm st b).playback = .armed := rfl
@[simp] theorem arm_pendingCues (c : Channel) (st : StartCond) (b : Option Counter) :
    (c.arm st b).pendingCues = 0 := rfl
@[simp] theorem arm_list (c : Channel) (st : StartCond) (b : Option Counter) :
    (c.arm st b).list = reloadLoops c.list := rfl
@[simp] theorem arm_stream (c : Channel) (st : StartCond) (b : Option Counter) :
    (c.arm st b).stream = c.stream := rfl
@[simp] theorem arm_settings (c : Channel) (st : StartCond) (b : Option Counter) :
    (c.arm st b).settings = c.settings := rfl
@[simp] theorem arm_mask (c : Channel) (st : StartCond) (b : Option Counter) :
    (c.arm st b).mask = c.mask := rfl
@[simp] theorem arm_hold (c : Channel) (st : StartCond) (b : Option Counter) :
    (c.arm st b).hold = c.hold := rfl
@[simp] theorem flush_playback (c : Channel) : c.flush.playback = c.playback := rfl
@[simp] theorem flush_list (c : Channel) : c.flush.list = c.list := rfl
@[simp] theorem flush_stream (c : Channel) : c.flush.stream = {} := rfl
@[simp] theorem reloadLoops_length (l : List Slot) : (reloadLoops l).length = l.length := by
  simp [reloadLoops]

@[simp] theorem presentOn_playback (code : Int) (m : MarkerLevels) (c : Channel) :
    (presentOn code m c).playback = c.playback := rfl
@[simp] theorem presentOn_run (code : Int) (m : MarkerLevels) (c : Channel) :
    (presentOn code m c).run = c.run := rfl
@[simp] theorem presentOn_list (code : Int) (m : MarkerLevels) (c : Channel) :
    (presentOn code m c).list = c.list := rfl
@[simp] theorem presentOn_stream (code : Int) (m : MarkerLevels) (c : Channel) :
    (presentOn code m c).stream = c.stream := rfl
@[simp] theorem presentOn_settings (code : Int) (m : MarkerLevels) (c : Channel) :
    (presentOn code m c).settings = c.settings := rfl
@[simp] theorem presentOn_hold (code : Int) (m : MarkerLevels) (c : Channel) :
    (presentOn code m c).hold = code := rfl
@[simp] theorem presentOn_strobe (code : Int) (m : MarkerLevels) (c : Channel) :
    (presentOn code m c).out.strobe = c.out.strobe := rfl
@[simp] theorem presentOn_pin (code : Int) (m : MarkerLevels) (c : Channel) :
    (presentOn code m c).out.pin = drive c.out.d3 := rfl

/-! ### The reference-edge count -/

/-- A DEV-RESET ALL comes after the edges that are known to have passed and before the next boundary. -/
theorem edgeAtTake_some {k c : Nat} {d : Device} (h : d.refEdge = some c)
    (hl : leastEdges c d < edgesToBoundary c d) :
    ∃ e, leastEdges c d ≤ e ∧ e < edgesToBoundary c d ∧ edgeAtTake k d = some ((c + e) % 256) := by
  have hm := Nat.mod_lt (Config.edgesIntoPeriod k)
    (show 0 < edgesToBoundary c d - leastEdges c d by omega)
  exact ⟨leastEdges c d + Config.edgesIntoPeriod k % (edgesToBoundary c d - leastEdges c d),
    by omega, by omega, by simp [edgeAtTake, h, Nat.add_assoc]⟩

/-! ### Segment records -/

theorem findSeg_some {segs : List Segment} {id : Nat} {g : Segment} (h : findSeg segs id = some g) :
    g ∈ segs ∧ g.id = id :=
  ⟨List.mem_of_find?_eq_some h, by simpa using List.find?_some h⟩

theorem findSeg_none {segs : List Segment} {id : Nat} :
    findSeg segs id = none ↔ ∀ g ∈ segs, g.id ≠ id := by
  simp [findSeg, List.find?_eq_none]

theorem mem_insertSeg {g h : Segment} {segs : List Segment} :
    h ∈ insertSeg g segs ↔ h = g ∨ h ∈ segs := by
  induction segs with
  | nil => simp [insertSeg]
  | cons k rest ih =>
    rw [insertSeg]
    split
    · simp
    · simp [ih]; tauto

theorem mem_updateSeg {segs : List Segment} {id : Nat} {f : Segment → Segment} {h : Segment} :
    h ∈ updateSeg segs id f ↔ ∃ g ∈ segs, h = if g.id = id then f g else g := by
  simp [updateSeg, eq_comm]

theorem mem_removeSeg {segs : List Segment} {id : Nat} {h : Segment} :
    h ∈ removeSeg segs id ↔ h ∈ segs ∧ h.id ≠ id := by
  simp [removeSeg]

@[simp] theorem refIn_store (m : SegMem) (r : StepRecord) : (refIn m r).store = m.store := by
  unfold refIn; split <;> rfl
@[simp] theorem refIn_free (m : SegMem) (r : StepRecord) : (refIn m r).free = m.free := by
  unfold refIn; split <;> rfl
@[simp] theorem refIn_clearList (m : SegMem) (r : StepRecord) : (refIn m r).clearList = m.clearList := by
  unfold refIn; split <;> rfl
@[simp] theorem refOut_store (m : SegMem) (r : StepRecord) : (refOut m r).store = m.store := by
  unfold refOut; split <;> rfl
@[simp] theorem refOut_free (m : SegMem) (r : StepRecord) : (refOut m r).free = m.free := by
  unfold refOut; split <;> rfl
@[simp] theorem refOut_clearList (m : SegMem) (r : StepRecord) :
    (refOut m r).clearList = m.clearList := by
  unfold refOut; split <;> rfl

/-! ### Replies -/

@[simp] theorem refuse_state (s : State) (c : ReplyCode) : (refuse s c).state = s := rfl
@[simp] theorem refuse_code (s : State) (c : ReplyCode) : (refuse s c).code = c := rfl
@[simp] theorem refuse_payload (s : State) (c : ReplyCode) : (refuse s c).payload = [] := rfl
@[simp] theorem accept_state (s : State) (p : List Word) : (accept s p).state = s := rfl
@[simp] theorem accept_code (s : State) (p : List Word) : (accept s p).code = .ok := rfl
@[simp] theorem accept_payload (s : State) (p : List Word) : (accept s p).payload = p := rfl

@[simp] theorem pendReply_mem (k : BitVec 8) (a : Answer) : (pendReply k a).mem = a.state.mem := rfl
@[simp] theorem pendReply_chans (k : BitVec 8) (a : Answer) : (pendReply k a).chans = a.state.chans := rfl
@[simp] theorem pendReply_cue (k : BitVec 8) (a : Answer) : (pendReply k a).cue = a.state.cue := rfl
@[simp] theorem pendReply_prot (k : BitVec 8) (a : Answer) : (pendReply k a).prot = a.state.prot := rfl
@[simp] theorem pendReply_temp (k : BitVec 8) (a : Answer) : (pendReply k a).temp = a.state.temp := rfl
@[simp] theorem pendReply_link (k : BitVec 8) (a : Answer) : (pendReply k a).link =
    { a.state.link with reply := ⟨echoKind k a.code, a.code, summaryOf a.state, a.payload⟩ } := rfl
@[simp] theorem pendReply_events (k : BitVec 8) (a : Answer) : (pendReply k a).events = a.state.events := rfl
@[simp] theorem pendReply_dev (k : BitVec 8) (a : Answer) : (pendReply k a).dev = a.state.dev := rfl
@[simp] theorem pendReply_boundaryOpen (k : BitVec 8) (a : Answer) : (pendReply k a).boundaryOpen = a.state.boundaryOpen := rfl
@[simp] theorem pendReply_resetHeld (k : BitVec 8) (a : Answer) : (pendReply k a).resetHeld = a.state.resetHeld := rfl
@[simp] theorem pendReply_freeIndex (k : BitVec 8) (a : Answer) : (pendReply k a).freeIndex = a.state.freeIndex := rfl
@[simp] theorem pendReply_pending (k : BitVec 8) (a : Answer) : (pendReply k a).pending = a.state.pending := rfl
@[simp] theorem receiveWindow_mem (w : Window) (s : State) : (receiveWindow w s).mem = s.mem := rfl
@[simp] theorem receiveWindow_chans (w : Window) (s : State) : (receiveWindow w s).chans = s.chans := rfl
@[simp] theorem receiveWindow_cue (w : Window) (s : State) : (receiveWindow w s).cue = s.cue := rfl
@[simp] theorem receiveWindow_prot (w : Window) (s : State) : (receiveWindow w s).prot = s.prot := rfl
@[simp] theorem receiveWindow_temp (w : Window) (s : State) : (receiveWindow w s).temp = s.temp := rfl
@[simp] theorem receiveWindow_events (w : Window) (s : State) : (receiveWindow w s).events = s.events := rfl
@[simp] theorem receiveWindow_dev (w : Window) (s : State) : (receiveWindow w s).dev = s.dev := rfl
@[simp] theorem receiveWindow_boundaryOpen (w : Window) (s : State) : (receiveWindow w s).boundaryOpen = s.boundaryOpen := rfl
@[simp] theorem receiveWindow_resetHeld (w : Window) (s : State) : (receiveWindow w s).resetHeld = s.resetHeld := rfl
@[simp] theorem receiveWindow_freeIndex (w : Window) (s : State) : (receiveWindow w s).freeIndex = s.freeIndex := rfl
@[simp] theorem receiveWindow_pending (w : Window) (s : State) : (receiveWindow w s).pending = s.pending := rfl
@[simp] theorem receiveWindow_ch (w : Window) (s : State) (n : Ch) : (receiveWindow w s).ch n = s.ch n := rfl
@[simp] theorem receiveWindow_pr (w : Window) (s : State) (n : Ch) : (receiveWindow w s).pr n = s.pr n := rfl

/-- A message of a known kind: BADCHAN, LOCKED, or the block's answer. -/
theorem answerMessage_cases (k : Kind) (m : Msg) (body : State → Answer) (s : State) :
    (badChannel k m.channel = true ∧ answerMessage k m body s = pendReply k.code (refuse s .badChan)) ∨
      (badChannel k m.channel = false ∧ k.lockable = true ∧ s.temp.state = .lock ∧
        answerMessage k m body s = pendReply k.code (refuse s .locked)) ∨
      (badChannel k m.channel = false ∧ (k.lockable = true → s.temp.state ≠ .lock) ∧
        answerMessage k m body s = pendReply k.code (body s)) := by
  unfold answerMessage
  by_cases hb : badChannel k m.channel = true
  · exact .inl ⟨hb, by rw [if_pos hb]⟩
  · have hb' : badChannel k m.channel = false := by simpa using hb
    by_cases hl : (k.lockable && s.temp.state == .lock) = true
    · have h2 : k.lockable = true ∧ s.temp.state = .lock := by simpa using hl
      exact .inr (.inl ⟨hb', h2.1, h2.2, by rw [if_neg hb, if_pos hl]⟩)
    · refine .inr (.inr ⟨hb', ?_, by rw [if_neg hb, if_neg hl]⟩)
      intro hk ht
      exact hl (by simp [hk, ht])

/-- A window with a frame: the rest of an old selection, a frame too long, or the message. -/
theorem takeMessage_cases (k : Kind) (m : Msg) (body : State → Answer) (s : State) :
    (s.link.awaitRise = true ∧ takeMessage k m body s = s.setLink { s.link with awaitRise := false }) ∨
      (s.link.awaitRise = false ∧ 256 < m.payload.length ∧
        takeMessage k m body s =
          pendReply 0 (refuse (receiveWindow (frameWindow k.code m) s) .badFrame)) ∨
      (s.link.awaitRise = false ∧ m.payload.length ≤ 256 ∧
        takeMessage k m body s =
          answerMessage k m body (receiveWindow (frameWindow k.code m) s)) := by
  unfold takeMessage
  by_cases ha : s.link.awaitRise = true
  · exact .inl ⟨ha, by rw [if_pos ha]⟩
  · have ha' : s.link.awaitRise = false := by simpa using ha
    by_cases hl : 256 < m.payload.length
    · exact .inr (.inl ⟨ha', hl, by rw [if_neg ha, if_pos hl]⟩)
    · exact .inr (.inr ⟨ha', by omega, by rw [if_neg ha, if_neg hl]⟩)

/-- What the link's handling and the block's answer both keep, the message keeps. -/
theorem takeMessage_keeps {P : State → Prop} (hl : ∀ s l, P s → P (s.setLink l)) {k : Kind} {m : Msg}
    {body : State → Answer}
    (hb : ∀ s, (k.lockable = true → s.temp.state ≠ .lock) → P s → P (body s).state) {s : State}
    (hs : P s) : P (takeMessage k m body s) := by
  have hr : ∀ w, P (receiveWindow w s) := fun w => hl s _ hs
  obtain ⟨-, e⟩ | ⟨-, -, e⟩ | ⟨-, -, e⟩ := takeMessage_cases k m body s <;> rw [e]
  · exact hl _ _ hs
  · exact hl _ _ (hr _)
  · obtain ⟨-, e⟩ | ⟨-, -, -, e⟩ | ⟨-, hk, e⟩ :=
      answerMessage_cases k m body (receiveWindow (frameWindow k.code m) s) <;> rw [e]
    · exact hl _ _ (hr _)
    · exact hl _ _ (hr _)
    · exact hl _ _ (hb _ hk (hr _))

end Sys2Proof.Machine
end

