-- ==== Sys2Proof/Laws/Frames.lean ====
section
/-! SUPPORT. What a sample boundary leaves alone: segment memory, protection, die temperature, link, RESET#, free values and the queue of commands. -/

namespace Sys2Proof.Machine

theorem sameOutside_refl (s : State) : SameOutside s s := ⟨rfl, rfl, rfl, rfl, rfl, rfl, rfl⟩

theorem sameOutside_trans {s t u : State} (h : SameOutside s t) (k : SameOutside t u) :
    SameOutside s u := by
  obtain ⟨h1, h2, h3, h4, h5, h6, h7⟩ := h
  obtain ⟨k1, k2, k3, k4, k5, k6, k7⟩ := k
  exact ⟨k1.trans h1, k2.trans h2, k3.trans h3, k4.trans h4, k5.trans h5, k6.trans h6, k7.trans h7⟩

theorem sameOutside_setCh (s : State) (n : Ch) (c : Channel) : SameOutside s (s.setCh n c) :=
  ⟨rfl, rfl, rfl, rfl, rfl, rfl, rfl⟩
theorem sameOutside_setCue (s : State) (c : CueController) : SameOutside s (s.setCue c) :=
  ⟨rfl, rfl, rfl, rfl, rfl, rfl, rfl⟩
theorem sameOutside_setDev (s : State) (d : Device) : SameOutside s (s.setDev d) :=
  ⟨rfl, rfl, rfl, rfl, rfl, rfl, rfl⟩
theorem sameOutside_setOpen (s : State) (b : Bool) : SameOutside s (s.setOpen b) :=
  ⟨rfl, rfl, rfl, rfl, rfl, rfl, rfl⟩
theorem sameOutside_enterEvent (k : EventKind) (c : Option Ch) (i : Option Nat) (v : Option Word)
    (s : State) : SameOutside s (enterEvent k c i v s) := ⟨rfl, rfl, rfl, rfl, rfl, rfl, rfl⟩
theorem sameOutside_pushOrDrop (cue : Nat) (src : CueSource) (s : State) :
    SameOutside s (pushOrDrop cue src s) := by
  simp [SameOutside]

theorem sameOutside_eachCh {f : Ch → State → State} (hf : ∀ n s, SameOutside s (f n s)) (l : List Ch)
    (s : State) : SameOutside s (eachCh l f s) :=
  eachCh_keeps (P := SameOutside s) (fun n t h => sameOutside_trans h (hf n t)) l s (sameOutside_refl s)

theorem sameOutside_stepEnd (n : Ch) (s : State) : SameOutside s (stepEnd n s) := by
  simp only [stepEnd]
  split
  · exact sameOutside_refl s
  · split
    · exact sameOutside_setCh s _ _
    · exact sameOutside_trans (sameOutside_setCh s _ _) (sameOutside_enterEvent _ _ _ _ _)

theorem sameOutside_resolveRepeat (n : Ch) (s : State) : SameOutside s (resolveRepeat n s) := by
  simp only [resolveRepeat]
  split
  · split
    · exact sameOutside_setCh s _ _
    · exact sameOutside_trans (sameOutside_setCh s _ _) (sameOutside_stepEnd _ _)
  · exact sameOutside_refl s

theorem sameOutside_settle (n : Ch) (s : State) : SameOutside s (settle n s) := by
  unfold settle
  split
  · exact sameOutside_refl s
  · exact sameOutside_resolveRepeat n s
  · exact sameOutside_stepEnd n s

theorem sameOutside_enterStep (n : Ch) (idx : Nat) (s : State) : SameOutside s (enterStep n idx s) := by
  simp only [enterStep]
  split
  · exact sameOutside_refl s
  · split
    · exact sameOutside_setCh s _ _
    · exact sameOutside_trans (sameOutside_pushOrDrop _ _ s) (sameOutside_setCh _ _ _)

theorem sameOutside_entryStage (n : Ch) (s : State) : SameOutside s (entryStage n s) := by
  simp only [entryStage]
  split
  · exact sameOutside_enterStep n 0 s
  · split
    · exact sameOutside_enterStep n _ s
    · exact sameOutside_refl s

theorem sameOutside_openBoundary (turns : List Ch) (s : State) :
    SameOutside s (openBoundary turns s) := by
  simp only [openBoundary]
  split
  · exact sameOutside_refl s
  · refine sameOutside_trans (sameOutside_eachCh sameOutside_settle (channelOrder turns) s) ?_
    exact sameOutside_trans (sameOutside_setDev _ (advanceClock _))
      (sameOutside_trans (sameOutside_eachCh sameOutside_entryStage (channelOrder turns) _)
        (sameOutside_setOpen _ true))

theorem sameOutside_takeCue (cue : Nat) (n : Ch) (s : State) : SameOutside s (takeCue cue n s) := by
  simp only [takeCue]
  split
  · split
    · exact sameOutside_setCh s _ _
    · exact sameOutside_trans (sameOutside_setCh s _ _) (sameOutside_enterEvent _ _ _ _ _)
  · split
    · exact sameOutside_enterStep n 0 s
    · repeat' split
      all_goals first | exact sameOutside_setCh s _ _ | exact sameOutside_refl s

theorem sameOutside_applyFirstDue (turns : List Ch) (s : State) :
    SameOutside s (applyFirstDue turns s) := by
  simp only [applyFirstDue, applyCue]
  split
  · exact sameOutside_refl s
  · exact sameOutside_trans (sameOutside_setCue s _)
      (sameOutside_eachCh (fun n t => sameOutside_takeCue _ n t) _ _)

theorem sameOutside_applyDue (turns : List Ch) :
    ∀ (fuel : Nat) (s : State), SameOutside s (applyDue turns fuel s)
  | 0, s => sameOutside_refl s
  | fuel + 1, s =>
    sameOutside_trans (sameOutside_applyFirstDue turns s) (sameOutside_applyDue turns fuel _)

theorem sameOutside_cueStage (turns : List Ch) (s : State) : SameOutside s (cueStage turns s) :=
  sameOutside_applyDue turns _ s

theorem sameOutside_primingStage (n : Ch) (s : State) : SameOutside s (primingStage n s) := by
  simp only [primingStage]
  split
  · exact sameOutside_setCh s _ _
  · exact sameOutside_refl s

theorem sameOutside_present (n : Ch) (c : Int) (m : MarkerLevels) (s : State) :
    SameOutside s (present n c m s) := sameOutside_setCh s _ _

theorem sameOutside_setClip (n : Ch) (x : Formed) (s : State) : SameOutside s (setClip n x s) := by
  simp only [setClip]
  repeat' split
  · exact sameOutside_setCh s _ _
  · exact sameOutside_trans (sameOutside_setCh s _ _) (sameOutside_enterEvent _ _ _ _ _)
  · exact sameOutside_refl s

theorem sameOutside_setLimit (n : Ch) (x : Formed) (s : State) : SameOutside s (setLimit n x s) := by
  simp only [setLimit]
  repeat' split
  · exact sameOutside_setCh s _ _
  · exact sameOutside_trans (sameOutside_setCh s _ _) (sameOutside_enterEvent _ _ _ _ _)
  · exact sameOutside_refl s

theorem sameOutside_playValue (n : Ch) (r : StepRecord) (v : Int) (s : State) :
    SameOutside s (playValue n r v s) :=
  sameOutside_trans (sameOutside_setClip n _ s)
    (sameOutside_trans (sameOutside_setLimit n _ _) (sameOutside_present n _ _ _))

theorem sameOutside_consume (n : Ch) (rest : List Sample) (s : State) :
    SameOutside s (consume n rest s) := by
  simp only [consume]
  split
  · exact sameOutside_trans (sameOutside_setCh s _ _) (sameOutside_enterEvent _ _ _ _ _)
  · exact sameOutside_setCh s _ _

theorem sameOutside_endFound (n : Ch) (why : Owed) (deferred : List Ch) (s : State) :
    SameOutside s (endFound n why deferred s) := by
  simp only [endFound]
  split
  · exact sameOutside_setCh s _ _
  · exact sameOutside_trans (sameOutside_setCh s _ _) (sameOutside_settle n _)

theorem sameOutside_advanceMemory (n : Ch) (r : StepRecord) (g : Segment) (deferred : List Ch)
    (s : State) : SameOutside s (advanceMemory n r g deferred s) := by
  simp only [advanceMemory]
  split
  · exact sameOutside_setCh s _ _
  · exact sameOutside_trans (sameOutside_setCh s _ _) (sameOutside_endFound n _ _ _)

theorem sameOutside_advanceStream (n : Ch) (r : StepRecord) (deferred : List Ch) (s : State) :
    SameOutside s (advanceStream n r deferred s) := by
  simp only [advanceStream]
  split
  · exact sameOutside_trans (sameOutside_setCh s _ _) (sameOutside_endFound n _ _ _)
  · exact sameOutside_setCh s _ _

theorem sameOutside_underrun (n : Ch) (r : StepRecord) (deferred : List Ch) (s : State) :
    SameOutside s (underrun n r deferred s) := by
  have h : SameOutside s (endFound n .streamEnd deferred (present n (s.ch n).hold {} s)) :=
    sameOutside_trans (sameOutside_present n _ _ s) (sameOutside_endFound n _ _ _)
  exact sameOutside_trans h
    (sameOutside_trans (sameOutside_setCh _ n _) (sameOutside_enterEvent _ _ _ _ _))

theorem sameOutside_playStep (n : Ch) (r : StepRecord) (deferred : List Ch) (s : State) :
    SameOutside s (playStep n r deferred s) := by
  simp only [playStep]
  split
  · split
    · exact sameOutside_present n _ _ s
    · exact sameOutside_trans (sameOutside_playValue n r _ s) (sameOutside_advanceMemory n r _ _ _)
  · split
    · exact sameOutside_underrun n r deferred s
    · exact sameOutside_trans (sameOutside_consume n _ s)
        (sameOutside_trans (sameOutside_playValue n r _ _) (sameOutside_advanceStream n r _ _))

theorem sameOutside_codeStage (deferred : List Ch) (n : Ch) (s : State) :
    SameOutside s (codeStage deferred n s) := by
  simp only [codeStage]
  split
  · exact sameOutside_present n _ _ s
  · exact sameOutside_present n _ _ s
  · exact sameOutside_present n _ _ s
  · split
    · exact sameOutside_playStep n _ deferred s
    · exact sameOutside_present n _ _ s

theorem sameOutside_sampleBoundary (turns deferred : List Ch) (s : State) :
    SameOutside s (sampleBoundary turns deferred s) := by
  simp only [sampleBoundary]
  refine sameOutside_trans (sameOutside_openBoundary turns s) ?_
  refine sameOutside_trans (sameOutside_cueStage turns _) ?_
  refine sameOutside_trans (sameOutside_eachCh sameOutside_primingStage (channelOrder turns) _) ?_
  exact sameOutside_trans (sameOutside_eachCh (sameOutside_codeStage deferred) _ _)
    (sameOutside_setOpen _ _)

/-- Finishing a boundary that stands open leaves the same blocks alone. -/
theorem sameOutside_finishBoundary (s : State) : SameOutside s (finishBoundary s) := by
  unfold finishBoundary
  split
  · exact sameOutside_sampleBoundary [] [] s
  · exact sameOutside_refl s

end Sys2Proof.Machine
end

