-- ==== Sys2Proof/Laws/Line.lean ====
section
/-! SUPPORT. What the cue line's operations can do, and the fields of the Cue Controller and of State that moves of the line leave alone. -/

namespace Sys2Proof.Machine

variable (c : CueController)

/-! ### What no change of the wires touches: the queue, the delivery list, the triggers -/

@[simp] theorem setOthers_sendQ (l : CueLine) (b : Bool) : (setOthers l b c).sendQ = c.sendQ := by
  cases l <;> rfl
@[simp] theorem setOthers_delivery (l : CueLine) (b : Bool) : (setOthers l b c).delivery = c.delivery := by
  cases l <;> rfl
@[simp] theorem setOthers_trig0 (l : CueLine) (b : Bool) : (setOthers l b c).trig0 = c.trig0 := by
  cases l <;> rfl
@[simp] theorem setOthers_trig1 (l : CueLine) (b : Bool) : (setOthers l b c).trig1 = c.trig1 := by
  cases l <;> rfl

@[simp] theorem driveWires_sendQ (ck dt : Bool) : (driveWires ck dt c).sendQ = c.sendQ := rfl
@[simp] theorem driveWires_delivery (ck dt : Bool) : (driveWires ck dt c).delivery = c.delivery := rfl
@[simp] theorem driveWires_trig0 (ck dt : Bool) : (driveWires ck dt c).trig0 = c.trig0 := rfl
@[simp] theorem driveWires_trig1 (ck dt : Bool) : (driveWires ck dt c).trig1 = c.trig1 := rfl

@[simp] theorem readTimers_sendQ : (readTimers c).sendQ = c.sendQ := rfl
@[simp] theorem readTimers_delivery : (readTimers c).delivery = c.delivery := rfl
@[simp] theorem readTimers_trig0 : (readTimers c).trig0 = c.trig0 := rfl
@[simp] theorem readTimers_trig1 : (readTimers c).trig1 = c.trig1 := rfl

@[simp] theorem releaseWires_sendQ : (releaseWires c).sendQ = c.sendQ := rfl
@[simp] theorem releaseWires_delivery : (releaseWires c).delivery = c.delivery := rfl
@[simp] theorem releaseWires_trig0 : (releaseWires c).trig0 = c.trig0 := rfl
@[simp] theorem releaseWires_trig1 : (releaseWires c).trig1 = c.trig1 := rfl

@[simp] theorem enterPhase_sendQ (p : SendPhase) : (enterPhase p c).sendQ = c.sendQ := by
  unfold enterPhase; cases c.inFlight <;> cases p <;> rfl
@[simp] theorem enterPhase_delivery (p : SendPhase) : (enterPhase p c).delivery = c.delivery := by
  unfold enterPhase; cases c.inFlight <;> cases p <;> rfl
@[simp] theorem enterPhase_trig0 (p : SendPhase) : (enterPhase p c).trig0 = c.trig0 := by
  unfold enterPhase; cases c.inFlight <;> cases p <;> rfl
@[simp] theorem enterPhase_trig1 (p : SendPhase) : (enterPhase p c).trig1 = c.trig1 := by
  unfold enterPhase; cases c.inFlight <;> cases p <;> rfl

@[simp] theorem holdOver_sendQ : (holdOver c).sendQ = c.sendQ := by
  unfold holdOver; split
  · simp
  · split <;> simp
@[simp] theorem holdOver_delivery : (holdOver c).delivery = c.delivery := by
  unfold holdOver; split
  · simp
  · split <;> simp
@[simp] theorem holdOver_trig0 : (holdOver c).trig0 = c.trig0 := by
  unfold holdOver; split
  · simp
  · split <;> simp
@[simp] theorem holdOver_trig1 : (holdOver c).trig1 = c.trig1 := by
  unfold holdOver; split
  · simp
  · split <;> simp

@[simp] theorem obey_sendQ : (obey c).sendQ = c.sendQ := by
  unfold obey; split
  · rfl
  · split <;> (try split_ifs) <;> simp
@[simp] theorem obey_delivery : (obey c).delivery = c.delivery := by
  unfold obey; split
  · rfl
  · split <;> (try split_ifs) <;> simp
@[simp] theorem obey_trig0 : (obey c).trig0 = c.trig0 := by
  unfold obey; split
  · rfl
  · split <;> (try split_ifs) <;> simp
@[simp] theorem obey_trig1 : (obey c).trig1 = c.trig1 := by
  unfold obey; split
  · rfl
  · split <;> (try split_ifs) <;> simp

@[simp] theorem follow_sendQ (b : CueController) : (follow b c).sendQ = c.sendQ := by
  simp [follow]
@[simp] theorem follow_delivery (b : CueController) : (follow b c).delivery = c.delivery := by
  simp [follow]
@[simp] theorem follow_trig0 (b : CueController) : (follow b c).trig0 = c.trig0 := by
  simp [follow]
@[simp] theorem follow_trig1 (b : CueController) : (follow b c).trig1 = c.trig1 := by
  simp [follow]

@[simp] theorem lineMove_sendQ (m : LineMove) : (lineMove m c).sendQ = c.sendQ := by
  unfold lineMove; split_ifs
  · rfl
  · cases m <;> simp
@[simp] theorem lineMove_delivery (m : LineMove) : (lineMove m c).delivery = c.delivery := by
  unfold lineMove; split_ifs
  · rfl
  · cases m <;> simp
@[simp] theorem lineMove_trig0 (m : LineMove) : (lineMove m c).trig0 = c.trig0 := by
  unfold lineMove; split_ifs
  · rfl
  · cases m <;> simp
@[simp] theorem lineMove_trig1 (m : LineMove) : (lineMove m c).trig1 = c.trig1 := by
  unfold lineMove; split_ifs
  · rfl
  · cases m <;> simp

@[simp] theorem beginFrame_sendQ (h : HalfPeriod) : (beginFrame h c).sendQ = c.sendQ := by
  simp [beginFrame]
@[simp] theorem beginFrame_delivery (h : HalfPeriod) : (beginFrame h c).delivery = c.delivery := by
  simp [beginFrame]
@[simp] theorem beginFrame_trig0 (h : HalfPeriod) : (beginFrame h c).trig0 = c.trig0 := by
  simp [beginFrame]
@[simp] theorem beginFrame_trig1 (h : HalfPeriod) : (beginFrame h c).trig1 = c.trig1 := by
  simp [beginFrame]

@[simp] theorem abandonFrame_sendQ : (abandonFrame c).sendQ = c.sendQ := by
  simp [abandonFrame]
@[simp] theorem abandonFrame_delivery : (abandonFrame c).delivery = c.delivery := by
  simp [abandonFrame]
@[simp] theorem abandonFrame_trig0 : (abandonFrame c).trig0 = c.trig0 := by
  simp [abandonFrame]
@[simp] theorem abandonFrame_trig1 : (abandonFrame c).trig1 = c.trig1 := by
  simp [abandonFrame]

/-! ### Moves in their order -/

@[simp] theorem lineMoves_nil : lineMoves [] c = c := rfl
@[simp] theorem lineMoves_cons (m : LineMove) (ms : List LineMove) :
    lineMoves (m :: ms) c = lineMoves ms (lineMove m c) := rfl
theorem lineMoves_append (ms ns : List LineMove) :
    lineMoves (ms ++ ns) c = lineMoves ns (lineMoves ms c) := List.foldl_append ..

/-- What every move keeps, the moves keep. -/
theorem lineMoves_keeps {P : CueController → Prop} (h : ∀ m d, P d → P (lineMove m d)) :
    ∀ (ms : List LineMove) (d : CueController), P d → P (lineMoves ms d)
  | [], _, hd => hd
  | m :: ms, d, hd => lineMoves_keeps h ms (lineMove m d) (h m d hd)

@[simp] theorem lineMoves_sendQ (ms : List LineMove) : (lineMoves ms c).sendQ = c.sendQ :=
  lineMoves_keeps (P := fun d => d.sendQ = c.sendQ) (fun m d h => by rw [lineMove_sendQ, h]) ms c rfl
@[simp] theorem lineMoves_delivery (ms : List LineMove) : (lineMoves ms c).delivery = c.delivery :=
  lineMoves_keeps (P := fun d => d.delivery = c.delivery) (fun m d h => by rw [lineMove_delivery, h]) ms c rfl
@[simp] theorem lineMoves_trig0 (ms : List LineMove) : (lineMoves ms c).trig0 = c.trig0 :=
  lineMoves_keeps (P := fun d => d.trig0 = c.trig0) (fun m d h => by rw [lineMove_trig0, h]) ms c rfl
@[simp] theorem lineMoves_trig1 (ms : List LineMove) : (lineMoves ms c).trig1 = c.trig1 :=
  lineMoves_keeps (P := fun d => d.trig1 = c.trig1) (fun m d h => by rw [lineMove_trig1, h]) ms c rfl

/-- A line that has brought what a row tells stands until that row is told. -/
theorem lineMove_due {m : LineMove} (h : rowDue c = true) : lineMove m c = c := by simp [lineMove, h]

theorem lineMoves_due (ms : List LineMove) (h : rowDue c = true) : lineMoves ms c = c :=
  (lineMoves_keeps (P := fun d => d = c)
    (fun m d e => by subst e; exact lineMove_due d h) ms c rfl)

/-! ### The state a line moves in -/

variable (s : State)

@[simp] theorem moveLine_nil : moveLine [] s = s := rfl
@[simp] theorem moveLine_cue (ms : List LineMove) : (moveLine ms s).cue = lineMoves ms s.cue := rfl
@[simp] theorem moveLine_mem (ms : List LineMove) : (moveLine ms s).mem = s.mem := rfl
@[simp] theorem moveLine_chans (ms : List LineMove) : (moveLine ms s).chans = s.chans := rfl
@[simp] theorem moveLine_prot (ms : List LineMove) : (moveLine ms s).prot = s.prot := rfl
@[simp] theorem moveLine_temp (ms : List LineMove) : (moveLine ms s).temp = s.temp := rfl
@[simp] theorem moveLine_link (ms : List LineMove) : (moveLine ms s).link = s.link := rfl
@[simp] theorem moveLine_events (ms : List LineMove) : (moveLine ms s).events = s.events := rfl
@[simp] theorem moveLine_dev (ms : List LineMove) : (moveLine ms s).dev = s.dev := rfl
@[simp] theorem moveLine_boundaryOpen (ms : List LineMove) : (moveLine ms s).boundaryOpen = s.boundaryOpen := rfl
@[simp] theorem moveLine_resetHeld (ms : List LineMove) : (moveLine ms s).resetHeld = s.resetHeld := rfl
@[simp] theorem moveLine_freeIndex (ms : List LineMove) : (moveLine ms s).freeIndex = s.freeIndex := rfl
@[simp] theorem moveLine_pending (ms : List LineMove) : (moveLine ms s).pending = s.pending := rfl

/-! ### The levels a wire and the receiver can come to -/

@[simp] theorem wireOf_setOthers (l k : CueLine) (b : Bool) :
    wireOf (setOthers l b c) k = if k = l then { wireOf c k with others := b } else wireOf c k := by
  cases l <;> cases k <;> rfl

/-- With no wire changed the receiver hears nothing. -/
@[simp] theorem hear_same (ck dt : Bool) (r : Receiver) : hear ck dt ck dt r = r := by
  cases ck <;> cases dt <;> cases r <;> simp [hear]

/-- What the receiver can make of a change: nothing; a start condition, outside or inside a frame; the first low
half; a bit, the eighth among them; a stop condition. -/
theorem hear_cases (ck dt ck' dt' : Bool) (r : Receiver) :
    hear ck dt ck' dt' r = r ∨
      (r = .outside ∧ ck = true ∧ ck' = true ∧ dt = true ∧ dt' = false ∧
        hear ck dt ck' dt' r = .inside [] true) ∨
      ∃ bits started, r = .inside bits started ∧ ck = true ∧
        ((ck' = false ∧ started = true ∧ hear ck dt ck' dt' r = .inside bits false) ∨
          (ck' = false ∧ started = false ∧ bits.length < 7 ∧
            hear ck dt ck' dt' r = .inside (bits ++ [dt]) false) ∨
          (ck' = false ∧ started = false ∧ 7 ≤ bits.length ∧
            hear ck dt ck' dt' r = .ended (bits ++ [dt])) ∨
          (ck' = true ∧ dt = true ∧ dt' = false ∧ hear ck dt ck' dt' r = .reopened) ∨
          (ck' = true ∧ dt = false ∧ dt' = true ∧ hear ck dt ck' dt' r = .ended bits)) := by
  cases r with
  | outside => cases ck <;> cases ck' <;> cases dt <;> cases dt' <;> simp [hear]
  | ended bits => simp [hear]
  | reopened => simp [hear]
  | inside bits started =>
    rcases Nat.lt_or_ge bits.length 7 with h | h
    · cases ck <;> cases ck' <;> cases dt <;> cases dt' <;> cases started <;>
        simp [hear, h, Nat.not_le.mpr h]
    · cases ck <;> cases ck' <;> cases dt <;> cases dt' <;> cases started <;>
        simp [hear, h]

/-! ### What the rows of the line can do once their moves are made -/

theorem frameStart_cases (ms : List LineMove) :
    frameStart ms s = moveLine ms s ∨
      (s.cue.sendQ ≠ [] ∧ (lineMoves ms s.cue).inFlight = none ∧ (lineMoves ms s.cue).idleEnough = true ∧
        frameStart ms s = s.setCue (beginFrame s.dev.half (lineMoves ms s.cue))) := by
  simp only [frameStart]
  split
  · exact .inl rfl
  · rename_i h
    simp only [moveLine_cue, Bool.or_eq_true, List.isEmpty_iff, lineMoves_sendQ, Bool.not_eq_true',
      not_or, Bool.not_eq_false, Bool.not_eq_true, Option.isSome_eq_false_iff, Option.isNone_iff_eq_none] at h
    exact .inr ⟨h.1.1, h.1.2, h.2, rfl⟩

theorem frameSent_cases (ms : List LineMove) :
    frameSent ms s = moveLine ms s ∨
      (atPhase .made (lineMoves ms s.cue) = true ∧
        frameSent ms s = s.setCue { lineMoves ms s.cue with inFlight := none, sendQ := s.cue.sendQ.tail }) := by
  simp only [frameSent]
  split
  · rename_i h
    exact .inr ⟨h, by simp [moveLine, State.setCue]⟩
  · exact .inl rfl

theorem arbitrationLost_cases (ms : List LineMove) :
    arbitrationLost ms s = moveLine ms s ∨
      (atPhase .lost (lineMoves ms s.cue) = true ∧ arbitrationLost ms s = loseAttempt (moveLine ms s)) := by
  simp only [arbitrationLost]
  split
  · rename_i h
    exact .inr ⟨h, rfl⟩
  · exact .inl rfl

theorem frameReceived_cases (ms : List LineMove) (onB : Bool) :
    frameReceived ms onB s = moveLine ms s ∨
      ∃ bits, (lineMoves ms s.cue).receiver = .ended bits ∧
        let u := s.setCue { lineMoves ms s.cue with receiver := .outside }
        (∃ cue, judgeFrame bits = .valid cue ∧
          frameReceived ms onB s = deliver cue (effectiveSample s.dev onB) u) ∨
        ∃ why, judgeFrame bits = .malformed why ∧ frameReceived ms onB s = cueError why u := by
  simp only [frameReceived, moveLine_cue]
  cases h : (lineMoves ms s.cue).receiver with
  | ended bits =>
    refine .inr ⟨bits, rfl, ?_⟩
    dsimp only
    cases judgeFrame bits with
    | valid cue => exact .inl ⟨cue, rfl, rfl⟩
    | malformed why => exact .inr ⟨why, rfl, rfl⟩
  | _ => exact .inl rfl

theorem startCondition_cases (ms : List LineMove) :
    startCondition ms s = moveLine (ms ++ [.pull .cuedt]) s ∨
      (lineMove (.pull .cuedt) (lineMoves ms s.cue)).receiver = .reopened ∧
        startCondition ms s = cueError .framing (s.setCue
          { lineMove (.pull .cuedt) (lineMoves ms s.cue) with receiver := .inside [] true }) := by
  have e : lineMoves (ms ++ [.pull .cuedt]) s.cue = lineMove (.pull .cuedt) (lineMoves ms s.cue) := by
    rw [lineMoves_append]; rfl
  simp only [startCondition, moveLine_cue, e]
  split
  · rename_i h
    exact .inr ⟨h, rfl⟩
  · exact .inl rfl

theorem stalledFrame_cases (ms : List LineMove) :
    stalledFrame ms s = moveLine ms s ∨
      (stallRuns (lineMoves ms s.cue) = true ∧
        stalledFrame ms s = cueError .framing (s.setCue { lineMoves ms s.cue with receiver := .outside })) := by
  simp only [stalledFrame]
  split
  · rename_i h
    exact .inr ⟨h, rfl⟩
  · exact .inl rfl

theorem stuckLine_cases (l : CueLine) (ms : List LineMove) :
    stuckLine l ms s = moveLine ms s ∨
      (stuckRuns (lineMoves ms s.cue) l = true ∧
        let u := cueError .stuck (s.setCue (setStuck { lineMoves ms s.cue with receiver := .outside } l true))
        ((lineMoves ms s.cue).inFlight = none ∧ stuckLine l ms s = u ∨
          (lineMoves ms s.cue).inFlight ≠ none ∧
            stuckLine l ms s = loseAttempt (u.setCue (readTimers (releaseWires u.cue))))) := by
  simp only [stuckLine]
  split
  · rename_i h
    refine .inr ⟨h, ?_⟩
    cases hf : (lineMoves ms s.cue).inFlight with
    | none => exact .inl ⟨rfl, by simp [hf]; rfl⟩
    | some f => exact .inr ⟨by simp, by simp [hf]; rfl⟩
  · exact .inl rfl

end Sys2Proof.Machine
end

