-- ==== Sys2Proof/Laws/Link.lean ====
section
/-! SUPPORT. What the link does around a message that reaches its block: the window held, and the answer as `answered` writes it. -/

namespace Sys2Proof.Machine

@[simp] theorem frameWords_length (k : BitVec 8) (m : Msg) :
    (frameWords k m).length = m.payload.length + 2 := by
  simp [frameWords]

@[simp] theorem windowEdges_frameWindow (k : BitVec 8) (m : Msg) :
    windowEdges (frameWindow k m) = 32 * (m.payload.length + 2) := by
  simp [windowEdges, frameWindow]

/-- The link after the window of a frame of at most 256 payload words. -/
theorem receiveWindow_frame {k : BitVec 8} {m : Msg} {s : State} (h : m.payload.length ≤ 256) :
    receiveWindow (frameWindow k m) s = s.setLink { s.link with
      rxBuffer := frameWords k m
      bitCount := 32 * (m.payload.length + 2)
      carriedOut := some ⟨s.link.reply, 32 * (m.payload.length + 2)⟩ } := by
  have hw : (frameWindow k m).words = frameWords k m := rfl
  have htake : (frameWords k m).take 258 = frameWords k m :=
    List.take_of_length_le (by rw [frameWords_length]; omega)
  have hmin : min (32 * (m.payload.length + 2)) 8257 = 32 * (m.payload.length + 2) := by omega
  have hne : ¬ 32 * (m.payload.length + 2) = 0 := by omega
  simp only [receiveWindow, windowEdges_frameWindow, hw]
  rw [show Config.maxWindowWords = 258 from rfl, htake, hmin, if_neg hne]

/-- A message that reaches its block: the row is the block's answer on the state with the window held. -/
theorem takeMessage_taken {k : Kind} {m : Msg} {body : State → Answer} {s : State}
    (h : Taken k m s) :
    between (takeMessage k m body) s =
      pendReply k.code (body (receiveWindow (frameWindow k.code m) s)) := by
  obtain ⟨⟨⟨hr, ho⟩, ha⟩, hl, hb, hk⟩ := h
  rw [between_closed hr ho]
  obtain ⟨h', -⟩ | ⟨-, h', -⟩ | ⟨-, -, e⟩ := takeMessage_cases k m body s
  · rw [ha] at h'; cases h'
  · exact absurd hl (by simpa using h')
  · rw [e]
    obtain ⟨h', -⟩ | ⟨-, h', ht, -⟩ | ⟨-, -, e⟩ :=
      answerMessage_cases k m body (receiveWindow (frameWindow k.code m) s)
    · rw [hb] at h'; cases h'
    · exact absurd ht (hk h')
    · exact e

/-- A refusal of a message that reached its block changes only the link. -/
theorem pendReply_refuse {k : Kind} {m : Msg} {s : State} {code : ReplyCode} (h : Taken k m s)
    (hc : code ≠ .badFrame ∧ code ≠ .badCheck ∧ code ≠ .reset) :
    pendReply k.code (refuse (receiveWindow (frameWindow k.code m) s) code) =
      answered k m code [] s s := by
  obtain ⟨⟨-, ha⟩, hl, -⟩ := h
  rw [receiveWindow_frame hl]
  cases code <;> simp_all [pendReply, answered, echoKind, State.setLink, summaryOf, refuse]

/-- An answer with a code of its own kind: `answered`, over the state the block left, the link apart. -/
theorem pendReply_answered {k : Kind} {m : Msg} {s t u : State} {code : ReplyCode}
    {payload : List Word} (h : Taken k m s)
    (hc : code ≠ .badFrame ∧ code ≠ .badCheck ∧ code ≠ .reset)
    (hu : u.link = (receiveWindow (frameWindow k.code m) s).link) (ht : ∃ l, t = u.setLink l) :
    pendReply k.code ⟨u, code, payload⟩ = answered k m code payload s t := by
  obtain ⟨⟨-, ha⟩, hl, -⟩ := h
  rw [receiveWindow_frame hl] at hu
  obtain ⟨l, rfl⟩ := ht
  have he : echoKind k.code code = k.code := by
    cases code <;> simp_all [echoKind]
  have hs : summaryOf (u.setLink l) = summaryOf u := rfl
  simp only [pendReply, answered, hs, he, hu, setLink_link, ha]
  rfl

end Sys2Proof.Machine
end

