-- ==== Sys2Proof/Laws/Memory.lean ====
section
/-! SUPPORT. The store: reading after writing, and its canonical form kept by every memory operation. -/

namespace Sys2Proof.Machine

@[simp] theorem memory_read_nil (a : Nat) : Memory.read [] a = 0 := rfl

theorem memory_wf_cons (c : Nat × Sample) (rest : Memory) :
    Memory.wf (c :: rest) = true ↔
      c.2 ≠ 0 ∧ (∀ d ∈ rest, c.1 < d.1) ∧ Memory.wf rest = true := by
  simp [Memory.wf, and_assoc]

/-- A word below every listed address reads 0. -/
theorem memory_read_below {m : Memory} {a : Nat} (h : ∀ d ∈ m, a < d.1) : Memory.read m a = 0 := by
  induction m with
  | nil => rfl
  | cons c rest ih =>
    have hc := h c (by simp)
    rw [Memory.read, if_neg (by omega)]
    exact ih (fun d hd => h d (by simp [hd]))

/-- Every address of a written store was listed before or is the word written. -/
theorem mem_write {m : Memory} {a : Nat} {v : Sample} {d : Nat × Sample}
    (h : d ∈ Memory.write m a v) : d ∈ m ∨ d = (a, v) := by
  induction m with
  | nil => by_cases hv : v = 0 <;> simp_all [Memory.write]
  | cons c rest ih =>
    rw [Memory.write] at h
    by_cases h1 : a < c.1
    · by_cases hv : v = 0 <;> simp_all
      tauto
    · by_cases h2 : a = c.1
      · by_cases hv : v = 0
        · simp only [if_neg h1, if_pos h2, if_pos hv] at h
          exact .inl (List.mem_cons_of_mem _ h)
        · simp only [if_neg h1, if_pos h2, if_neg hv] at h
          rcases List.mem_cons.mp h with h | h
          · exact .inr h
          · exact .inl (List.mem_cons_of_mem _ h)
      · simp only [if_neg h1, if_neg h2] at h
        rcases List.mem_cons.mp h with h | h
        · exact .inl (by simp [h])
        · rcases ih h with h | h
          · exact .inl (List.mem_cons_of_mem _ h)
          · exact .inr h

/-- Writing a word keeps the canonical form. -/
theorem memory_wf_write {m : Memory} (a : Nat) (v : Sample) (h : Memory.wf m = true) :
    Memory.wf (Memory.write m a v) = true := by
  induction m with
  | nil =>
    by_cases hv : v = 0
    · rw [Memory.write, if_pos hv]; rfl
    · rw [Memory.write, if_neg hv, memory_wf_cons]
      exact ⟨hv, by simp, rfl⟩
  | cons c rest ih =>
    obtain ⟨h0, hlt, hr⟩ := (memory_wf_cons c rest).mp h
    rw [Memory.write]
    by_cases h1 : a < c.1
    · rw [if_pos h1]
      by_cases hv : v = 0
      · simpa [hv] using h
      · rw [if_neg hv, memory_wf_cons]
        refine ⟨hv, ?_, h⟩
        intro d hd
        rcases List.mem_cons.mp hd with rfl | hd
        · exact h1
        · exact lt_trans h1 (hlt d hd)
    · rw [if_neg h1]
      by_cases h2 : a = c.1
      · rw [if_pos h2]
        by_cases hv : v = 0
        · simpa [hv] using hr
        · rw [if_neg hv, memory_wf_cons]
          exact ⟨hv, fun d hd => by simpa [h2] using hlt d hd, hr⟩
      · rw [if_neg h2, memory_wf_cons]
        refine ⟨h0, ?_, ih hr⟩
        intro d hd
        rcases mem_write hd with hd | rfl
        · exact hlt d hd
        · show c.1 < a
          omega

/-- Writing consecutive words keeps the canonical form. -/
theorem memory_wf_writeAll {m : Memory} (a : Nat) (vs : List Sample) (h : Memory.wf m = true) :
    Memory.wf (Memory.writeAll m a vs) = true := by
  induction vs generalizing m a with
  | nil => exact h
  | cons v vs ih => exact ih (a + 1) (memory_wf_write a v h)

/-- Removing entries keeps the canonical form. -/
theorem memory_wf_filter {m : Memory} (p : Nat × Sample → Bool) (h : Memory.wf m = true) :
    Memory.wf (m.filter p) = true := by
  induction m with
  | nil => rfl
  | cons c rest ih =>
    obtain ⟨h0, hlt, hr⟩ := (memory_wf_cons c rest).mp h
    by_cases hp : p c = true
    · rw [List.filter_cons_of_pos hp, memory_wf_cons]
      exact ⟨h0, fun d hd => hlt d (List.mem_filter.mp hd).1, ih hr⟩
    · rw [List.filter_cons_of_neg hp]
      exact ih hr

/-- Zeroing words keeps the canonical form. -/
theorem memory_wf_zero {m : Memory} (base len : Nat) (h : Memory.wf m = true) :
    Memory.wf (Memory.zero m base len) = true := memory_wf_filter _ h

/-- The store after reset has the canonical form. -/
theorem memory_wf_reset : Memory.wf State.reset.mem.store = true := rfl

/-- A read after a write: the word written, or what the other word read before. -/
theorem memory_read_write {m : Memory} (a b : Nat) (v : Sample) (h : Memory.wf m = true) :
    Memory.read (Memory.write m a v) b = if b = a then v else Memory.read m b := by
  induction m with
  | nil =>
    by_cases hv : v = 0
    · rw [Memory.write, if_pos hv]
      by_cases hb : b = a <;> simp [hb, hv]
    · rw [Memory.write, if_neg hv]
      show (if a = b then v else 0) = if b = a then v else 0
      by_cases hb : b = a
      · rw [if_pos hb.symm, if_pos hb]
      · rw [if_neg (Ne.symm hb), if_neg hb]
  | cons c rest ih =>
    obtain ⟨h0, hlt, hr⟩ := (memory_wf_cons c rest).mp h
    rw [Memory.write]
    by_cases h1 : a < c.1
    · rw [if_pos h1]
      have hbelow : Memory.read (c :: rest) a = 0 := by
        apply memory_read_below
        intro d hd
        rcases List.mem_cons.mp hd with rfl | hd
        · exact h1
        · exact lt_trans h1 (hlt d hd)
      by_cases hv : v = 0
      · rw [if_pos hv]
        by_cases hb : b = a
        · rw [if_pos hb, hb, hbelow, hv]
        · rw [if_neg hb]
      · rw [if_neg hv]
        by_cases hb : b = a
        · rw [if_pos hb]
          simp [Memory.read, hb]
        · rw [if_neg hb]
          show (if a = b then v else Memory.read (c :: rest) b) = _
          rw [if_neg (Ne.symm hb)]
    · rw [if_neg h1]
      by_cases h2 : a = c.1
      · rw [if_pos h2]
        have hbelow : Memory.read rest a = 0 := memory_read_below (fun d hd => h2 ▸ hlt d hd)
        by_cases hv : v = 0
        · rw [if_pos hv]
          by_cases hb : b = a
          · rw [if_pos hb, hb, hbelow, hv]
          · rw [if_neg hb, Memory.read, if_neg (by omega)]
        · rw [if_neg hv]
          by_cases hb : b = a
          · simp [Memory.read, hb]
          · rw [if_neg hb]
            simp only [Memory.read]
            rw [if_neg (Ne.symm hb), if_neg (by omega)]
      · rw [if_neg h2]
        by_cases hc : c.1 = b
        · rw [Memory.read, if_pos hc, if_neg (by omega), Memory.read, if_pos hc]
        · rw [Memory.read, if_neg hc, ih hr, Memory.read, if_neg hc]

/-- A read after consecutive words were written. -/
theorem memory_read_writeAll {m : Memory} (a b : Nat) (vs : List Sample) (h : Memory.wf m = true) :
    Memory.read (Memory.writeAll m a vs) b =
      if a ≤ b ∧ b < a + vs.length then vs.getD (b - a) 0 else Memory.read m b := by
  induction vs generalizing m a with
  | nil => simp [Memory.writeAll]
  | cons v vs ih =>
    rw [Memory.writeAll, ih (a + 1) (memory_wf_write a v h), memory_read_write a b v h]
    simp only [List.length_cons]
    by_cases hb : b = a
    · subst hb
      simp
    · by_cases hin : a + 1 ≤ b ∧ b < a + 1 + vs.length
      · rw [if_pos hin, if_pos (by omega)]
        obtain ⟨k, hk⟩ : ∃ k, b - a = k + 1 := ⟨b - a - 1, by omega⟩
        have : b - (a + 1) = k := by omega
        rw [hk, this]
        simp
      · rw [if_neg hin, if_neg hb, if_neg (by omega)]

/-- A read after a run of words was zeroed. -/
theorem memory_read_zero {m : Memory} (base len b : Nat) (h : Memory.wf m = true) :
    Memory.read (Memory.zero m base len) b =
      if base ≤ b ∧ b < base + len then 0 else Memory.read m b := by
  induction m with
  | nil => simp [Memory.zero]
  | cons c rest ih =>
    obtain ⟨h0, hlt, hr⟩ := (memory_wf_cons c rest).mp h
    have ih' := ih hr
    simp only [Memory.zero] at ih' ⊢
    by_cases hp : (decide (c.1 < base) || decide (base + len ≤ c.1)) = true
    · rw [List.filter_cons, if_pos hp, Memory.read]
      by_cases hc : c.1 = b
      · rw [if_pos hc, if_neg, Memory.read, if_pos hc]
        simp at hp
        omega
      · rw [if_neg hc, ih', Memory.read, if_neg hc]
    · rw [List.filter_cons, if_neg hp, ih', Memory.read]
      by_cases hc : c.1 = b
      · have hin : base ≤ b ∧ b < base + len := by
          simp at hp
          omega
        rw [if_pos hin, if_pos hin]
      · rw [if_neg hc]

end Sys2Proof.Machine
end

