-- ==== Sys2Proof/WellFormed.lean ====
section
/-! DEFINITION. Which commands the part can meet: the bounds their operands have outside the part. -/

namespace Sys2Proof

/-- A message frame has at most 256 payload words (R159). -/
def Msg.wellFormed (m : Msg) : Bool := m.payload.length ≤ Config.maxPayload

/-- Fewer than 32 bits follow the last whole word of a window (R156). -/
def Window.wellFormed (w : Window) : Bool := w.tail.length < 32

/-- A die reading is limited to −40..150 (R150). -/
def readingWellFormed (r : Int) : Bool := -40 ≤ r && r ≤ 150

/-- A list of channels in which none comes twice: an order of taking, or a set (log entry 6). -/
def channelsWellFormed (l : List Ch) : Bool := l.Nodup

/-- The commands the part can meet. -/
def Instr.wellFormed : Instr → Bool
  | .nop m | .identify m | .devConfig m | .devStatus m | .devResetPlayback m | .eventRead m
  | .segDefine m | .segWrite m | .segSeal m | .segDelete m | .segQuery m | .memQuery m
  | .chConfig m | .chMask m | .chStatus m | .chRestore m | .listClear m | .listAppend m
  | .listReplace m | .listRead m | .chStart m | .chStop m | .streamData m | .streamFlush m
  | .cueSend m | .trigConfig m => m.wellFormed
  | .devResetAll m r => m.wellFormed && readingWellFormed r
  | .selectionWindow w r => w.wellFormed && readingWellFormed r
  | .powerOn p => readingWellFormed p.reading
  | .pinResetAssert => true
  | .pinResetEnd p => readingWellFormed p.reading
  | .sampleBoundary turns deferred => channelsWellFormed turns && channelsWellFormed deferred
  | .startTimeReached _ turns | .primingMet _ turns | .markerWidthEnd _ turns
  | .dividerSwitch turns | .cueEffectiveSample turns => channelsWellFormed turns
  | .repeatBoundary _ | .streamLengthReached _ | .segClearDone | .frameStart _ | .frameSent _
  | .arbitrationLost _ | .frameReceived .. | .stalledFrame _ | .stuckLine .. | .startCondition _ | .trigPinChange _ _ | .trigEdgeQualified _
  | .faultAssert _ | .faultRelease _ | .faultQualified _ | .escalationExpiry _ | .attnPulseEnd
  | .stuckLineReleased .. => true
  | .tempReading r => readingWellFormed r

end Sys2Proof
end

