-- ==== Sys2Proof/Tests/Slice0.lean ====
section
/-! SUPPORT. The smoke tests of WellFormed, the worked cases of the manual, and one witness for the
hypotheses of every statement. -/

namespace Sys2Proof.Tests

-- One theorem after another: elaborated side by side, these would take more threads than the limit allows.
set_option Elab.async false

open Sys2Proof.Machine

/-! ### Small states and messages -/

/-- The state a command leaves. -/
def after (c : Instr) (s : State) : State :=
  match exec c s with
  | .next t => t
  | _ => State.reset

/-- A device-wide message. -/
def msg (payload : List Word) : Msg := { payload := payload }

/-- A message to channel 0. -/
def msg0 (payload : List Word) : Msg := { channel := 0#3, payload := payload }

/-- Segment 7 of the worked sequence of chapter 1, at base 1008, in a state, referenced `refs` times. -/
def seg7 (st : SegState) (refs : Nat) : Segment :=
  ⟨7, st, 1008, 5, 16, 16, true, if st = .clearing then 0 else 16, refs⟩

/-- The part with segment 7 alone. -/
def withSeg (st : SegState) (refs : Nat) : State :=
  State.reset.setMem
    { segs := [seg7 st refs]
      free := [⟨0, 1008⟩, ⟨1024, 261120⟩]
      clearList := if st = .clearing then [7] else [] }

/-- A step that plays segment 7 twice. -/
def memStep : StepRecord := ⟨.memory 7, 2, none, 65536, 16384, 0, none, none, none, none, none⟩

/-- A step that streams 3000 samples, waiting for cue 6, with marker B of width 2. -/
def streamStep : StepRecord :=
  ⟨.stream, 1, some 3000, 65536, 16384, 0, some 6, none, none, some ⟨false, true, 2⟩, none⟩

/-- A state with channel 0 changed. -/
def with0 (s : State) (f : Channel → Channel) : State := s.setCh .ch0 (f (s.ch .ch0))

/-- Channel 0 with a list, in a playback state and a phase. -/
def placed (l : List Slot) (p : Playback) (ph : Phase) (c : Channel) : Channel :=
  { c with list := l, playback := p, run := { c.run with phase := ph } }

/-- Segment 7 sealed and named once, channel 0 with that step in a playback state. -/
def memState (p : Playback) : State := with0 (withSeg .sealed 1) (placed [⟨memStep, 0⟩] p .playing)

/-- Channel 0 with the stream step, RUNNING in a phase. -/
def streamState (ph : Phase) : State := with0 State.reset (placed [⟨streamStep, 0⟩] .running ph)

/-- A state with its boundary open. -/
def opened (s : State) : State := s.setOpen true

/-- A state in temperature LOCK. -/
def locked : State := State.reset.setTemp ⟨.lock, 141⟩

/-- A state whose send queue holds `n` entries of cue 5. -/
def queueOf (n : Nat) (s : State) : State :=
  s.setCue { s.cue with sendQ := List.replicate n ⟨5, .cueSend, 0⟩ }

/-- A state whose own frame stands in phase `p`, for a head entry that has lost `k` attempts, with cue 0
behind it. -/
def sendingIn (p : SendPhase) (cue k : Nat) : State :=
  State.reset.setCue { sendQ := [⟨cue, .cueSend, k⟩, ⟨0, .cueSend, 0⟩], inFlight := some ⟨.one, p⟩,
                       receiver := .inside [] true, dt := ⟨p == .startHold, false⟩ }

/-- A frame in its start hold. -/
def sending (cue k : Nat) : State := sendingIn .startHold cue k

/-- One entry of `cue` queued on a line that has been idle for 2H, and its frame begun. -/
def begun (cue : Nat) : State :=
  after (.frameStart [.idleEnough]) (State.reset.setCue { sendQ := [⟨cue, .cueSend, 0⟩] })

/-- Pins all low or released, with a die reading. -/
def pinsAt (r : Int) : Pins := ⟨0, false, false, false, false, false, false, false, false, false, false, r⟩

/-- A state with `n` event records held. -/
def eventsOf (n : Nat) : State :=
  State.reset.setEvents { records := List.replicate n ⟨.clip, none, none, none, 0⟩, attn := 0 < n }

/-- RESET# held low. -/
def held : State := { State.reset with resetHeld := true }

/-! ### WellFormed: each check refuses an ill-formed command -/

theorem smoke_payload_of_257 : (Instr.nop (msg (List.replicate 257 0))).wellFormed = false := by
  decide +kernel
theorem smoke_payload_of_256 : (Instr.nop (msg (List.replicate 256 0))).wellFormed = true := by
  decide +kernel
theorem smoke_tail_of_32 :
    (Instr.selectionWindow ⟨[], List.replicate 32 true⟩ 20).wellFormed = false := by decide
theorem smoke_window_reading : (Instr.selectionWindow ⟨[], []⟩ 151).wellFormed = false := by decide
theorem smoke_reading_below : (Instr.tempReading (-41)).wellFormed = false := by decide
theorem smoke_reading_above : (Instr.tempReading 151).wellFormed = false := by decide
theorem smoke_reset_reading : (Instr.devResetAll (msg [2]) 151).wellFormed = false := by decide
theorem smoke_reset_payload :
    (Instr.devResetAll (msg (List.replicate 257 0)) 20).wellFormed = false := by decide +kernel
theorem smoke_power_on_reading :
    (Instr.powerOn (pinsAt (-41))).wellFormed = false := by decide
theorem smoke_turns_twice : (Instr.sampleBoundary [.ch0, .ch0] []).wellFormed = false := by decide
theorem smoke_deferred_twice : (Instr.sampleBoundary [] [.ch1, .ch1]).wellFormed = false := by decide
theorem smoke_cue_turns_twice : (Instr.cueEffectiveSample [.ch2, .ch2]).wellFormed = false := by decide

/-! ### The worked cases of the manual -/

/-- Chapter 10, the worked decode: the window of the short write, its words written out. -/
def shortWrite : Msg :=
  { half := true, payload := [0x07000000#32, 0x006400C8#32, 0x012C0190#32, 0x01F40000#32] }

theorem test_header_of_short_write : headerWord 0x11 shortWrite = 0x11F00004#32 := by decide +kernel
theorem test_short_write_is_judged :
    judgeWindow ⟨[0x11F00004#32, 0x07000000#32, 0x006400C8#32, 0x012C0190#32, 0x01F40000#32,
      checkWord [0x11F00004#32, 0x07000000#32, 0x006400C8#32, 0x012C0190#32, 0x01F40000#32]], []⟩ =
      .frame .segWrite shortWrite := by decide +kernel
/-- Chapter 10: LENGTH 5 in a six-word window is BADFRAME. -/
theorem test_wrong_length_is_badframe :
    judgeWindow ⟨[0x11F00005#32, 0x07000000#32, 0x006400C8#32, 0x012C0190#32, 0x01F40000#32, 0#32], []⟩ =
      .badFrame := by decide +kernel
theorem test_reply_header_ok :
    replyHeader ⟨0x11, .ok, { ev := true }, []⟩ = 0x11008000#32 := by decide +kernel
theorem test_reply_header_badframe :
    replyHeader ⟨0x00, .badFrame, { ev := true }, []⟩ = 0x00028000#32 := by decide +kernel
/-- The CRC of the nine bytes "123456789" with these parameters is 29B1 hexadecimal; nine bytes are not
whole words, so the first eight are words and the ninth is fed bit by bit. -/
theorem test_crc_check_value :
    [false, false, true, true, true, false, false, true].foldl crcBit
      (crc [0x31323334#32, 0x35363738#32]) = 0x29B1#16 := by decide +kernel

/-- Chapter 1: the five samples of the short write land at positions 0..4. -/
theorem test_segWrite_stores :
    (after (.segWrite shortWrite) (withSeg .opened 0)).mem.store =
      [(1008, 100), (1009, 200), (1010, 300), (1011, 400), (1012, 500)] := by decide +kernel
/-- Chapter 10: with HALF left at 0 the message is refused and nothing is stored. -/
theorem test_segWrite_half_matters :
    let t := after (.segWrite { shortWrite with half := false }) (withSeg .opened 0)
    t.mem.store = [] ∧ t.link.reply.code = .badVal := by decide +kernel
/-- Chapter 1: the seal copies position 4 into positions 5..15. -/
theorem test_segSeal_pads :
    let t := after (.segSeal (msg [0x07000000])) (after (.segWrite shortWrite) (withSeg .opened 0))
    Memory.read t.mem.store 1013 = 500 ∧ Memory.read t.mem.store 1023 = 500 ∧
      Memory.read t.mem.store 1024 = 0 := by decide +kernel
/-- Chapter 1: SEG-DEFINE(3, 1000). -/
theorem test_segDefine_first :
    let t := after (.segDefine (msg [0x030003E8])) State.reset
    t.mem.free = [⟨1008, 261136⟩] ∧ t.link.reply.payload = [0, 1008] ∧ t.mem.clearList = [3] := by
  decide +kernel
/-- Chapter 1: SEG-DELETE(12) between (0, 1008) and (7120, 255024) merges with neither. -/
theorem test_release_no_merge :
    release 1024 4096 [⟨0, 1008⟩, ⟨7120, 255024⟩] = [⟨0, 1008⟩, ⟨1024, 4096⟩, ⟨7120, 255024⟩] := by decide
theorem test_segDelete_inuse :
    (after (.segDelete (msg [0x07000000])) (withSeg .sealed 1)).link.reply.code = .inUse := by
  decide +kernel
theorem test_segClearDone_opens :
    let t := after .segClearDone (withSeg .clearing 0)
    t.mem.segs = [seg7 .opened 0] ∧ t.events.records = [⟨.segCleared, none, none, some 7, 0⟩] := by
  decide +kernel
theorem test_memQuery_counts :
    (after (.memQuery (msg [0])) State.reset).link.reply.payload =
      [0x00840000#32, 0x00004000#32] := by decide +kernel
theorem test_segQuery_opened :
    (after (.segQuery (msg [0x07000000])) (withSeg .opened 0)).link.reply.payload =
      [0x07180000#32, 1008, 5, 16, 16, 16] := by decide +kernel

/-- Chapter 2: NOTREADY for a segment that is not sealed, NOTFOUND for an undefined one. -/
theorem test_listAppend_notready :
    (after (.listAppend (msg0 (recordWords memStep))) (withSeg .opened 0)).link.reply.code = .notReady := by
  decide +kernel
theorem test_listAppend_notfound :
    (after (.listAppend (msg0 (recordWords memStep))) State.reset).link.reply.code = .notFound := by
  decide +kernel
theorem test_listReplace_range_before_state :
    (after (.listReplace (msg0 (3#32 :: recordWords memStep))) (memState .running)).link.reply.code =
      .badVal := by decide +kernel
theorem test_listClear_busy :
    (after (.listClear (msg0 [])) (memState .running)).link.reply.code = .busy := by decide +kernel
theorem test_listClear_lowers_counts :
    (after (.listClear (msg0 [])) (memState .idle)).mem.segs = [seg7 .sealed 0] := by decide +kernel
/-- Chapter 2: a STREAM step cannot carry a leave cue. -/
theorem test_stream_leave_out_of_range :
    StepRecord.inRange { streamStep with wait := none, leave := some 7 } = false := by decide
theorem test_listRead_reply :
    (after (.listRead (msg0 [0])) (memState .idle)).link.reply.payload =
      [0x00010000#32, 0x00070002#32, 0, 65536, 0x40000000#32, 0, 0, 0] := by decide +kernel

/-- Chapter 3, starts on the counter: the first two rows of the table. -/
theorem test_start_time_wraps :
    startBoundary (.time 5) (0xFFFFFFFFFFFD#48) = some 5 := by decide
theorem test_start_time_late :
    startBoundary (.time 1990) 2000 = some 2001 ∧ lateness 1990 2000 = 11#32 := by decide
theorem test_chStart_cue_and_time_badval :
    (after (.chStart (msg [0x00030C01, 0, 2100])) (memState .idle)).link.reply.code = .badVal := by
  decide +kernel
theorem test_chStart_busy :
    (after (.chStart (msg [1, 0, 0])) (memState .running)).link.reply.code = .busy := by decide +kernel
theorem test_chStop_idles :
    ((after (.chStop (msg [1])) (memState .running)).ch .ch0).playback = .idle := by decide +kernel
/-- Chapter 3: from (1, 32768) at rate 1.5 to (3, 0); the repeat boundary at (15, 0). -/
theorem test_advance : advancePos 1 32768 98304 = (3, 0) ∧ advancePos 15 0 98304 = (16, 32768) := by
  decide
theorem test_repeatBoundary_carries_phase :
    let s := with0 (memState .running) (fun c => { c with
      list := [⟨{ memStep with rate := 98304 }, 0⟩]
      run := { c.run with i := 15, f := 0, repeatsLeft := 2, owed := .repeatBoundary } })
    let c := (after (.repeatBoundary .ch0) s).ch .ch0
    c.run.i = 0 ∧ c.run.f = 32768 ∧ c.run.repeatsLeft = 1 := by decide +kernel
/-- Chapter 3: a counted jump counts down, and at 0 is set back and falls through. -/
theorem test_jump_counts :
    jumpOutcome 1 ⟨{ memStep with jump := some ⟨0, 1⟩ }, 1⟩ = (0, 0) ∧
      jumpOutcome 1 ⟨{ memStep with jump := some ⟨0, 1⟩ }, 0⟩ = (2, 1) := by decide
theorem test_streamLengthReached_ends_list :
    let s := with0 (streamState .playing) (fun c => { c with run := { c.run with owed := .streamEnd } })
    ((after (.streamLengthReached .ch0) s).ch .ch0).playback = .done := by decide +kernel
/-- R62, R93: at an underrun that is list end, a CH-STOP before and after the resolution; the debt and
STREAM_UNDERRUN are the boundary's in both orders. -/
theorem test_stop_at_underrun :
    let s := with0 (streamState .playing) (fun c => { c with run := { c.run with consumed := 2988 } })
    let first := after (.sampleBoundary [] [.ch0]) s
    let stopped := after (.chStop (msg [1])) first
    let resolved := after (.chStop (msg [1])) (after (.streamLengthReached .ch0) first)
    let low : Event := ⟨.streamUnderrun, some .ch0, some 0, some 12, 1⟩
    let done : Event := ⟨.seqDone, some .ch0, some 0, none, 1⟩
    (first.ch .ch0).playback = .running ∧ (first.ch .ch0).stream.debt = 12 ∧
      (stopped.ch .ch0).playback = .idle ∧ stopped.events.records = [low] ∧
      (after (.sampleBoundary [] []) stopped).events.records = [low] ∧
      (resolved.ch .ch0).playback = .idle ∧ resolved.events.records = [low, done] := by decide +kernel
/-- R31, R93: an append before the resolution of an underrun's end is met by it. -/
theorem test_append_at_underrun :
    let s := with0 (streamState .playing) (fun c => { c with run := { c.run with consumed := 2988 } })
    let more := msg0 (recordWords { streamStep with wait := none })
    let t := fun deferred => after (.sampleBoundary [] [])
      (after (.listAppend more) (after (.sampleBoundary [] deferred) s))
    ((t [.ch0]).ch .ch0).playback = .running ∧ ((t [.ch0]).ch .ch0).run.step = 1 ∧
      ((t []).ch .ch0).playback = .done := by decide +kernel
theorem test_chConfig_range :
    (after (.chConfig (msg0 [0x80007FFF, 2, 0x04001C00, 0x400])) State.reset).link.reply.code =
      .badVal := by decide +kernel
theorem test_chMask_drops_cue_zero :
    ((after (.chMask (msg0 [0, 3])) State.reset).ch .ch0).mask = 2#64 := by decide +kernel
theorem test_chStatus_clears_flags :
    let t := after (.chStatus (msg0 [])) (with0 State.reset (fun c => { c with clip := true }))
    (t.ch .ch0).clip = false ∧ t.link.reply.payload.head? = some 0x00000200#32 := by decide +kernel

/-- Chapter 4: the table of interpolation. -/
theorem test_interpolate :
    interpolate 1000 3000 16384 = 1500 ∧ interpolate 0 1 32768 = 1 ∧ interpolate 1 0 32768 = 1 ∧
      interpolate (-100) (-103) 40000 = -102 ∧ interpolate 0 (-1) 32769 = -1 ∧
      interpolate 4000 4000 32768 = 4000 := by decide
/-- Chapter 4: rounding at gain 0.5, and −1.0. -/
theorem test_gain :
    applyGain 3 8192 = 2 ∧ applyGain (-3) 8192 = -1 ∧ applyGain (-32768) (-16384) = 32768 := by decide
/-- Chapter 4: an ordinary sample, and the sample at the limits. -/
theorem test_worked_samples :
    formSample 1500 24576 (-500) .normal (-20000) 20000 = ⟨1750, 1750, 1750⟩ ∧ dacCode 1750 = 34518 ∧
      formSample 32767 32767 32767 .normal (-20000) 20000 = ⟨98299, 32767, 20000⟩ ∧
      formSample 32767 32767 32767 .derated (-20000) 20000 = ⟨98299, 8191, 8191⟩ := by decide
/-- R71: the division goes toward zero. -/
theorem test_derate_toward_zero : derate .derated (-7) = -1 ∧ derate .derated 7 = 1 := by decide

/-- Chapter 5: 510 samples into an empty buffer; the debt paid first (R88). -/
theorem test_stream_pays_debt :
    streamTake [1, 2, 3] ⟨[], 2⟩ = ⟨[3], 0⟩ ∧ streamTake [1, 2] ⟨[], 5⟩ = ⟨[], 3⟩ := by decide
theorem test_streamData_level :
    (after (.streamData { channel := 0#3, half := true, payload := [0x00010002, 0x00030000] })
      State.reset).link.reply.payload = [3, 0] := by decide +kernel
theorem test_streamFlush_empties :
    ((after (.streamFlush (msg0 [])) (with0 State.reset (fun c => { c with stream := ⟨[], 9⟩ }))).ch
      .ch0).stream = ⟨[], 0⟩ := by decide +kernel

/-- R104: the table of cue frames. -/
theorem test_frame_bits :
    frameBits 21 = [false, true, false, true, false, true, true] ∧
      frameBits 18 = [false, true, false, false, true, false, false] ∧
      frameBits 63 = [true, true, true, true, true, true, false] := by decide
theorem test_frame_judged :
    judgeFrame [false, true, false, false, true, false, false] = .valid 18 ∧
      judgeFrame [false, true, false, false, true, false, true] = .malformed .parity := by decide
/-- Chapter 6: cue 0 behind a frame in flight; the head that loses keeps its place unless cue 0 waits. -/
theorem test_cueSend_zero_second :
    (after (.cueSend (msg [0])) ((queueOf 2 State.reset).setCue { (queueOf 2 State.reset).cue with
      inFlight := some ⟨.one, .startHold⟩ })).cue.sendQ = [⟨5, .cueSend, 0⟩, ⟨0, .cueSend, 0⟩, ⟨5, .cueSend, 0⟩] := by
  decide +kernel
theorem test_arbitrationLost_yields :
    (after (.arbitrationLost []) (sendingIn .lost 21 0)).cue.sendQ =
      [⟨0, .cueSend, 0⟩, ⟨21, .cueSend, 1⟩] := by decide +kernel
theorem test_arbitrationLost_fourth :
    let t := after (.arbitrationLost []) (sendingIn .lost 21 3)
    t.cue.sendQ = [⟨0, .cueSend, 0⟩] ∧ t.events.records = [⟨.cueLost, none, none, some 21, 0⟩] := by
  decide +kernel
/-- R107, R108: an uncontested frame takes 17 H, is sent, and is received by the part itself. -/
theorem test_frame_of_17H :
    let t := after (.frameSent (List.replicate 17 .holdEnds)) (begun 5)
    (after (.frameSent (List.replicate 16 .holdEnds)) (begun 5)).cue.sendQ = [⟨5, .cueSend, 0⟩] ∧
      t.cue.sendQ = [] ∧ t.cue.inFlight = none ∧ t.cue.dt.own = false ∧
      (after (.frameReceived [] false) t).cue.delivery = [⟨5, 17⟩] := by decide +kernel
/-- R106: no frame begins before 2H of idle line, nor over a start seen first. -/
theorem test_frameStart_waits :
    let s := queueOf 1 State.reset
    after (.frameStart []) s = s ∧
      (after (.frameStart [.idleEnough, .pull .cuedt]) s).cue.inFlight = none ∧
      (after (.frameStart [.idleEnough, .pull .cuedt]) s).cue.receiver = .inside [] true := by
  decide +kernel
/-- One bit `b` of another sender that is in step with the part, from the fall of CUECK to its rise. -/
def inStep (b : Bool) : List LineMove :=
  [.holdEnds, .pull .cueck, if b then .release .cuedt else .pull .cuedt, .holdEnds, .release .cueck]
/-- One bit of a frame the part only receives. -/
def heard (b : Bool) : List LineMove :=
  [.pull .cueck, if b then .release .cuedt else .pull .cuedt, .release .cueck]
/-- Chapter 6: cue 21 meets cue 18; the two differ first at bit 4, where the part that sends 21 loses; it
receives cue 18 whole. -/
theorem test_cue_21_loses_to_18 :
    let t := after (.arbitrationLost (((frameBits 18).take 4).flatMap inStep)) (begun 21)
    (after (.arbitrationLost (((frameBits 18).take 3).flatMap inStep)) (begun 21)).cue.inFlight =
        some ⟨.one, .high 2⟩ ∧
      t.cue.inFlight = none ∧ t.cue.sendQ = [⟨21, .cueSend, 1⟩] ∧ t.cue.ck.own = false ∧
      t.cue.dt.own = false ∧ t.cue.receiver = .inside [false, true, false] false ∧
      (after (.frameReceived (((frameBits 18).drop 4).flatMap heard ++ heard false ++ [.release .cuedt])
        false) t).cue.delivery = [⟨18, 17⟩] := by decide +kernel
/-- R112: two senders of one cue; both send it whole. -/
theorem test_same_cue_twice :
    (after (.frameSent ((frameBits 5).flatMap inStep ++ inStep false ++ [.holdEnds, .release .cuedt]))
      (begun 5)).cue.sendQ = [] := by decide +kernel
/-- R110: a cue behind which CUEDT stays low H after the release of the stop has lost. -/
theorem test_loss_at_the_stop :
    let t := after (.arbitrationLost ((frameBits 5).flatMap inStep ++ inStep false ++ [.holdEnds, .holdEnds]))
      (begun 5)
    t.cue.sendQ = [⟨5, .cueSend, 1⟩] ∧ t.cue.receiver = .inside (frameBits 5) false := by decide +kernel
theorem test_frameReceived_aligns :
    (after (.frameReceived ((frameBits 18).flatMap heard ++ heard false ++ [.release .cuedt]) false)
      (after (.startCondition []) State.reset)).cue.delivery = [⟨18, 17⟩] := by decide +kernel
/-- R109, R114: another part's start condition inside the part's own frame is malformed, and loses the frame. -/
theorem test_foreign_start_is_framing :
    let t := after (.startCondition [.holdEnds, .holdEnds]) (begun 63)
    t.events.records = [⟨.cueError, none, none, some 2, 0⟩] ∧ t.cue.receiver = .inside [] true ∧
      t.cue.inFlight = some ⟨.one, .lost⟩ ∧
      (after (.arbitrationLost []) t).cue.sendQ = [⟨63, .cueSend, 1⟩] := by decide +kernel
/-- R123: DEV-RESET in a start hold drives CUECK low and releases CUEDT, and H later releases CUECK; the part's
own receiver is left inside a frame and reports it once it has stalled. -/
theorem test_ordered_release :
    let t := after (.devResetPlayback (msg [1])) (begun 5)
    t.cue.ck.own = true ∧ t.cue.dt.own = false ∧ t.cue.receiver = .inside [] false ∧
      (after (.stalledFrame [.holdEnds]) t).cue.ck.own = false ∧
      (after (.stalledFrame [.holdEnds]) t).events.records =
        [⟨.cueError, none, none, some 2, 0⟩] := by decide +kernel
theorem test_stalledFrame_framing :
    (after (.stalledFrame []) (after (.startCondition []) State.reset)).events.records =
      [⟨.cueError, none, none, some 2, 0⟩] := by decide +kernel
theorem test_stuckLine_once :
    let t := after (.stuckLine .cuedt [.pull .cuedt]) (queueOf 1 State.reset)
    t.events.records = [⟨.cueError, none, none, some 3, 0⟩] ∧ t.cue.receiver = .outside ∧
      after (.stuckLine .cuedt []) t = t := by decide +kernel
theorem test_stuckLineReleased :
    (after (.stuckLineReleased .cuedt [])
      (after (.stuckLine .cuedt [.pull .cuedt]) (queueOf 1 State.reset))).cue.stuckDt = false := by
  decide +kernel
theorem test_trigger_pushes :
    let s := after (.trigConfig (msg [0x00010009])) State.reset
    (after (.trigEdgeQualified .trig0) (after (.trigPinChange .trig0 true) s)).cue.sendQ =
      [⟨9, .trigger .trig0, 0⟩] := by decide +kernel

/-- Chapter 8: a fault that comes back. -/
theorem test_fault_that_comes_back :
    let s1 := after (.faultQualified .ch2) (after (.faultAssert .ch2) State.reset)
    let s2 := after (.faultQualified .ch2) (after (.faultAssert .ch2) (after (.faultRelease .ch2) s1))
    (s1.pr .ch2).state = .derated ∧ (s2.pr .ch2).state = .shut ∧ (s2.pr .ch2).enable = false ∧
      s2.events.records =
        [⟨.overload, some .ch2, none, none, 0⟩, ⟨.shutdown, some .ch2, none, some 2, 0⟩] := by
  decide +kernel
theorem test_escalation_by_persistence :
    let s1 := after (.faultQualified .ch2) (after (.faultAssert .ch2) State.reset)
    (after (.escalationExpiry .ch2) s1).events.records.getLast? =
      some ⟨.shutdown, some .ch2, none, some 1, 0⟩ := by decide +kernel
theorem test_chRestore_busy_while_asserted :
    let s1 := after (.faultQualified .ch0) (after (.faultAssert .ch0) State.reset)
    (after (.chRestore (msg0 [])) s1).link.reply.code = .busy ∧
      ((after (.chRestore (msg0 [])) (after (.faultRelease .ch0) s1)).pr .ch0).state = .normal := by
  decide +kernel
/-- Chapter 8: a hot die. -/
theorem test_hot_die :
    let s1 := after (.tempReading 141) (after (.tempReading 112) State.reset)
    let s2 := after (.tempReading 95) (after (.tempReading 125) (after (.tempReading 130) s1))
    s1.temp.state = .lock ∧ (s1.pr .ch0).cause = .temp ∧ s2.temp.state = .cool ∧
      s2.events.records = [⟨.tempWarn, none, none, some 112, 0⟩, ⟨.tempLock, none, none, some 141, 0⟩,
        ⟨.tempClear, none, none, some 125, 0⟩] := by decide +kernel

/-- Chapter 9, the ten windows: 70 edges are BADFRAME; the pending reply is carried out, then zeros. -/
theorem test_window_of_70_edges :
    let t := after (.selectionWindow ⟨[0, 0], List.replicate 6 false⟩ 20) State.reset
    t.link.reply = ⟨0, .badFrame, {}, []⟩ ∧ t.link.bitCount = 70 := by decide +kernel
theorem test_nop_answers_ok :
    (after (.nop (msg [0])) State.reset).link.reply = ⟨0, .ok, {}, []⟩ := by decide +kernel
theorem test_identify_words :
    (after (.identify (msg [])) State.reset).link.reply.payload = [0x2E510424#32, 1#32] := by
  decide +kernel
theorem test_devStatus_free_count :
    (after (.devStatus (msg [])) State.reset).link.reply.payload = [0, 0, 0, 0, 262144, 0] := by
  decide +kernel
theorem test_devConfig_align :
    let t := after (.devConfig (msg [0x00013120])) State.reset
    t.dev.align = 32 ∧ t.dev.half = .four ∧ t.dev.attnMode = .pulse := by decide +kernel
/-- Chapter 11, a full queue: the record is lost, the derating is not. -/
theorem test_full_queue :
    let t := after (.faultQualified .ch2) (after (.faultAssert .ch2) (eventsOf 32))
    t.events.lost = true ∧ t.events.records.length = 32 ∧ (t.pr .ch2).state = .derated := by decide +kernel
theorem test_eventRead_empties :
    let t := after (.eventRead (msg [32])) (eventsOf 32)
    t.events.records = [] ∧ t.events.attn = false ∧ t.link.reply.payload.length = 97 := by decide +kernel
theorem test_attnPulseEnd_releases :
    (after .attnPulseEnd (State.reset.setEvents { attn := true, pulse := true })).events.attn = false := by
  decide +kernel
theorem test_devReset_playback_cause :
    let t := after (.devResetPlayback (msg [1])) (memState .running)
    t.link.reply = ⟨0, .reset, {}, [4]⟩ ∧ t.mem.segs = [seg7 .sealed 0] := by decide +kernel
theorem test_devReset_all_cause :
    (after (.devResetAll (msg [2]) 20) (memState .running)).link.reply = ⟨0, .reset, {}, [3]⟩ := by
  decide +kernel
theorem test_pinReset_hot :
    (after (.pinResetEnd (pinsAt 145))
      (after .pinResetAssert State.reset)).events.records.map Event.kind = [.tempWarn, .tempLock] := by
  decide +kernel
theorem test_powerOn_marks :
    ((after (.powerOn { pinsAt 20 with mksel := 5 }) State.reset).ch
      .ch3).settings.lowMark = 2048 := by decide +kernel

/-- R73, R80: a code reaches the bus three boundaries after it is presented, as 32768 above it. -/
theorem test_three_boundaries_to_the_pins :
    let b := fun s => after (.sampleBoundary [] []) s
    let s := with0 State.reset (fun c => { c with settings := { c.settings with park := 1750 } })
    ((b (b (b s))).ch .ch0).out.pin.bus = 32768#16 ∧
      ((b (b (b (b s)))).ch .ch0).out.pin.bus = 34518#16 := by decide +kernel
/-- R73: the two ends of the code range on the bus. -/
theorem test_bus_ends : (drive ⟨-32768, {}⟩).bus = 0#16 ∧ (drive ⟨32767, {}⟩).bus = 65535#16 := by decide
/-- R82: STBn is held low with the bus at 32768 while RESET# is low, and runs again when it rises. -/
theorem test_strobe_held_low :
    let s := after .pinResetAssert (with0 State.reset (fun c => { c with
      out := { c.out with pin := ⟨7, ⟨true, true⟩⟩ } }))
    (s.ch .ch0).out.strobe = .heldLow ∧ (s.ch .ch0).out.pin = ⟨32768#16, ⟨false, false⟩⟩ ∧
      ((after (.pinResetEnd (pinsAt 20)) s).ch
        .ch0).out.strobe = .runs := by decide +kernel
/-- R48: a CH-STOP behind START_TIME_REACHED finds the boundary finished: the first code was presented at
it, and the park code from the following one. -/
theorem test_stop_after_start_time :
    let s := after (.chStart (msg [0x00020001, 0, 1])) (with0 (memState .idle) (fun c => { c with
      list := [⟨{ memStep with offset := 5 }, 0⟩] }))
    let t := after (.chStop (msg [1])) (after (.startTimeReached .ch0 []) s)
    (t.ch .ch0).playback = .idle ∧ (t.ch .ch0).out.d1.code = 5 ∧ t.dev.counter = 1 ∧
      ((after (.sampleBoundary [] []) t).ch .ch0).out.d1.code = 0 := by decide +kernel
/-- R51, R93: a STREAM-FLUSH behind PRIMING_MET finds the first sample played; the step underruns at the
next boundary. -/
theorem test_flush_after_priming_met :
    let s := with0 (streamState .priming) (fun c => { c with
      list := [⟨{ streamStep with length := some 3 }, 0⟩], stream := ⟨[7, 8, 9], 0⟩ })
    let t := after (.streamFlush (msg0 [])) (after (.primingMet .ch0 []) s)
    let u := after (.sampleBoundary [] []) t
    (t.ch .ch0).run.consumed = 1 ∧ (t.ch .ch0).out.d1.code = 7 ∧ (t.ch .ch0).stream.fifo = [] ∧
      (u.ch .ch0).stream.debt = 2 := by decide +kernel
/-- Chapter 3: MKA high for the marker's width, then low. -/
theorem test_markerWidthEnd_lowers :
    let s := opened (with0 (streamState .playing) (fun c => { c with markers := ⟨false, true⟩ }))
    ((after (.markerWidthEnd .ch0 []) s).ch .ch0).markers = ⟨false, false⟩ := by decide +kernel
/-- Chapter 3: 1020 samples do not meet a requirement of 1024; 1024 do. -/
theorem test_primingMet_requirement :
    let s := fun n => opened (with0 (streamState .priming) (fun c =>
      { c with stream := ⟨List.replicate n 0, 0⟩ }))
    ((after (.primingMet .ch0 []) (s 1020)).ch .ch0).run.phase = .priming ∧
      ((after (.primingMet .ch0 []) (s 1024)).ch .ch0).run.phase = .playing := by decide +kernel
theorem test_cueEffectiveSample_ends_wait :
    let s := opened ((streamState .waiting).setCue { delivery := [⟨6, 0⟩] })
    let t := after (.cueEffectiveSample []) s
    (t.ch .ch0).run.phase = .priming ∧ t.cue.delivery = [] := by decide +kernel
theorem test_startTimeReached_enters :
    let s := after (.chStart (msg [0x00020001, 0, 1])) (memState .idle)
    ((after (.startTimeReached .ch0 []) s).ch .ch0).playback = .running := by decide +kernel
theorem test_dividerSwitch :
    let s := State.reset.setDev { pendingDivider := some 4 }
    let t := after (.dividerSwitch []) s
    t.dev.divider = 4 ∧ t.dev.counter = 1 ∧ t.dev.refEdge = some 0 := by decide +kernel

/-- R183: one edge before the edge with count 0 and a divider pending, no edge can have passed. -/
theorem test_reset_all_before_switch (k : Nat) :
    edgeAtTake k { refEdge := some 255, pendingDivider := some 4 } = some 255 := by
  simp [edgeAtTake, leastEdges, edgesToBoundary, switchDue, Nat.mod_one]

/-! ### Witnesses: states and operands that meet the hypotheses of each statement -/

theorem witness_StepTakesTheFrontCommand : State.reset.pending = [] := rfl

/-- For WindowCarriesItsFrame and SelectionWindowTakesTheRow: a payload of 256 words. -/
theorem witness_WindowCarriesItsFrame : (msg (List.replicate 256 0)).payload.length ≤ 256 := by
  decide +kernel
theorem witness_SelectionWindowTakesTheRow :
    Kind.nop ≠ .devReset ∧ (msg (List.replicate 256 0)).payload.length ≤ 256 ∧
      Taken .nop (msg (List.replicate 256 0)) locked := by decide +kernel

/-- No edge; 31 edges; 8257 and 8288 edges. -/
theorem witness_DiscardedWindows_edges :
    LinkReady State.reset ∧ windowEdges ⟨[], []⟩ = 0 ∧
      windowEdges ⟨[], List.replicate 31 false⟩ % 32 ≠ 0 ∧
      8256 < windowEdges ⟨List.replicate 258 0, [false]⟩ ∧
      8256 < windowEdges ⟨List.replicate 259 0, []⟩ := by decide +kernel
/-- LENGTH 257; LENGTH 0 with two words after the header; a wrong and a right check word, the kind not in
the table. -/
theorem witness_DiscardedWindows_frames :
    LinkReady State.reset ∧ 256 < bitsOf 0x00E00101#32 8 0 ∧
      ([0, 0] : List Word).length ≠ bitsOf 0x00E00000#32 8 0 + 1 ∧
      ([0] : List Word).length = bitsOf 0x06E00000#32 8 0 + 1 ∧ bitsOf 0x06E00000#32 8 0 ≤ 256 ∧
      ([0] : List Word).getLastD 0 ≠ checkWord [0x06E00000#32] ∧
      [checkWord [0x06E00000#32]].getLastD 0 = checkWord [0x06E00000#32] := by decide +kernel
theorem witness_DiscardedWindows_unknown :
    ∀ k : Kind, k.code ≠ (0x06E00000#32 : Word).extractLsb' 24 8 := by
  intro k; cases k <;> decide

theorem witness_ChannelThenLockRefusals :
    LinkReady locked ∧ (msg []).payload.length ≤ 256 ∧ ({ channel := 4#3 } : Msg).channel = 4#3 ∧
      (msg []).channel = 7#3 ∧ badChannel .devConfig 7#3 = false ∧ badChannel .chConfig 3#3 = false ∧
      locked.temp.state = .lock ∧ LinkReady State.reset ∧ State.reset.temp.state ≠ .lock ∧
      bitsOf (msgWord (msg [0]) 0) 1 0 = 0 ∧ bitsOf (msgWord (msg [3]) 0) 1 0 = 3 := by decide
/-- Each expected LENGTH missed by one, on a part that is not locked. -/
theorem witness_ChannelThenLockRefusals_lengths :
    (msg []).payload.length ≠ 1 ∧ (msg [0]).payload.length ≠ 0 ∧ (msg [0, 0]).payload.length ≠ 1 ∧
      ¬ 1 ≤ (msg []).payload.length ∧ (msg (List.replicate 6 0)).payload.length ≠ 7 ∧
      (msg (List.replicate 9 0)).payload.length ≠ 8 ∧
      (after (.selectionWindow (frameWindow Kind.listReplace.code (msg0 (List.replicate 9 0))) 20)
        State.reset).link.reply.code = .badVal ∧
      (after (.selectionWindow (frameWindow Kind.devReset.code (msg [3])) 20)
        State.reset).link.reply.code = .badVal := by decide +kernel

theorem witness_SummaryBitsAfterEffect :
    (LinkReady State.reset ∧ windowEdges ⟨[0], []⟩ ≠ 0 ∧
      ∃ t, exec (.selectionWindow ⟨[0], []⟩ 20) State.reset = .next t) ∧
    (∃ t, exec (.powerOn (pinsAt 20)) held = .next t) ∧
    held.resetHeld = true ∧
    ∃ t, exec (.pinResetEnd (pinsAt 20)) held = .next t :=
  ⟨⟨by decide, by decide, _, rfl⟩, ⟨_, rfl⟩, rfl, _, rfl⟩
/-- A reply with 256 payload words; and a window that ends inside its header. -/
theorem witness_SummaryBitsAfterEffect_reply :
    ({ kind := 0x12, code := .ok, payload := List.replicate 256 0 } : Reply).payload.length ≤ 256 ∧
      (after (.selectionWindow ⟨[], List.replicate 8 false⟩ 20) State.reset).link.carriedOut ≠ none ∧
      0 < 8 := by decide +kernel

/-- Every field at the top of its range; and a sample. -/
theorem witness_RecordsAndSamplesCoded :
    StepRecord.inRange ⟨.memory 255, 65535, none, 262144, 32767, -32768, some 63, some 62, some 63,
        some ⟨true, true, 65535⟩, some ⟨63, 65535⟩⟩ = true ∧
      StepRecord.inRange ⟨.stream, 1, some 16777215, 65536, -32768, 32767, some 63, none, some 1,
        some ⟨false, true, 1⟩, some ⟨0, 0⟩⟩ = true ∧ 0 < (samplesOf true [0x00010000#32]).length := by decide

/-- Nothing fits 16 words: every region is smaller; L at both ends. -/
theorem witness_FirstFitAllocation :
    let s := State.reset.setMem { free := [] }
    Taken .segDefine (msg [0x07000001]) s ∧ (msg [0x07000001]).payload.length = 1 ∧
      1 ≤ bitsOf 0x07000001#32 18 0 ∧ bitsOf 0x07040000#32 18 0 ≤ 262144 ∧
      findSeg s.mem.segs 7 = none ∧ ∀ r ∈ s.mem.free, r.len < allocation 1 := by decide
/-- An allocation found, with a region passed over. -/
theorem witness_FirstFitAllocation_found :
    allocate [⟨0, 16⟩, ⟨32, 32⟩] 32 = some (32, [⟨0, 16⟩]) ∧ allocate [⟨0, 16⟩] 32 = none := by decide

theorem witness_ReleaseMerges :
    0 < 16 ∧ (∀ r ∈ [(⟨0, 16⟩ : Region)], r.base + r.len < 48) ∧
      (∀ r ∈ [(⟨96, 16⟩ : Region)], 48 + 16 < r.base) ∧
      (⟨32, 16⟩ : Region).base + (⟨32, 16⟩ : Region).len = 48 ∧ (⟨64, 16⟩ : Region).base = 48 + 16 := by
  decide

/-- L = 0 and 262,145; L = 1 and 262,144; defined and undefined; fitting and not. -/
theorem witness_SegDefineChecksAndEffect :
    let s := State.reset.setMem { free := [] }
    Taken .segDefine (msg [0x07000000]) State.reset ∧ Taken .segDefine (msg [0x07000000]) s ∧
      Taken .segDefine (msg [0x07000000]) (withSeg .opened 0) ∧ (msg [0x07000000]).payload.length = 1 ∧
      bitsOf 0x07000000#32 18 0 < 1 ∧ 262144 < bitsOf 0x07040001#32 18 0 ∧
      1 ≤ bitsOf 0x07000001#32 18 0 ∧ bitsOf 0x07040000#32 18 0 ≤ 262144 ∧
      (findSeg (withSeg .opened 0).mem.segs 7).isSome ∧ findSeg State.reset.mem.segs 7 = none ∧
      allocate s.mem.free (allocation 262144) = none ∧
      allocate State.reset.mem.free (allocation 262144) = some (0, []) := by decide

/-- 0, 1, 510 and 511 samples; undefined; too far; CLEARING, SEALED, OPEN. -/
theorem witness_SegWriteStoresSamples :
    Taken .segWrite shortWrite State.reset ∧ Taken .segWrite shortWrite (withSeg .clearing 0) ∧
      Taken .segWrite shortWrite (withSeg .sealed 0) ∧ Taken .segWrite shortWrite (withSeg .opened 0) ∧
      StoreOk (withSeg .opened 0) ∧ shortWrite.payload.length ≠ 0 ∧
      (samplesOf false ([] : List Word)).length < 1 ∧ (samplesOf true [(0 : Word)]).length = 1 ∧
      (samplesOf false (List.replicate 255 (0 : Word))).length = 510 ∧
      (samplesOf true (List.replicate 256 (0 : Word))).length = 511 ∧
      findSeg State.reset.mem.segs 7 = none ∧
      findSeg (withSeg .clearing 0).mem.segs 7 = some (seg7 .clearing 0) ∧
      findSeg (withSeg .sealed 0).mem.segs 7 = some (seg7 .sealed 0) ∧
      findSeg (withSeg .opened 0).mem.segs 7 = some (seg7 .opened 0) ∧
      (seg7 .opened 0).len < 1 + 5 ∧ 0 + 5 ≤ (seg7 .opened 0).len := by
  simp only [StoreOk]; decide +kernel

/-- For SegSealPadsAndSeals, and for SEG-DELETE and SEG-QUERY: the same message, each state. -/
theorem witness_SegSealPadsAndSeals :
    Taken .segSeal (msg [0x07000000]) State.reset ∧ Taken .segSeal (msg [0x07000000]) (withSeg .clearing 0) ∧
      Taken .segSeal (msg [0x07000000]) (withSeg .sealed 0) ∧
      Taken .segSeal (msg [0x07000000]) (withSeg .opened 0) ∧ (msg [0x07000000]).payload.length = 1 ∧
      bitsOf 0x07000000#32 31 24 = 7 ∧ (seg7 .opened 0).padded = true ∧ StoreOk (withSeg .opened 0) := by
  simp only [StoreOk]; decide +kernel
theorem witness_SegDeleteAndClearDone :
    Taken .segDelete (msg [0x07000000]) State.reset ∧ Taken .segDelete (msg [0x07000000]) (withSeg .sealed 1) ∧
      Taken .segDelete (msg [0x07000000]) (withSeg .opened 0) ∧ 0 < (seg7 .sealed 1).refs ∧
      (seg7 .opened 0).refs = 0 ∧ findSeg (withSeg .sealed 1).mem.segs 7 = some (seg7 .sealed 1) ∧
      Between (withSeg .clearing 0) ∧ (withSeg .clearing 0).mem.clearList = 7 :: [] ∧
      findSeg (withSeg .clearing 0).mem.segs 7 = some (seg7 .clearing 0) ∧
      (seg7 .clearing 0).state = .clearing ∧ StoreOk (withSeg .clearing 0) := by
  simp only [StoreOk]; decide +kernel
/-- A segment record with every field at the top of its range. -/
theorem witness_SegmentQueries_layout :
    let g : Segment := ⟨255, .sealed, 262128, 262144, 262144, 262144, true, 262144, 256⟩
    g.id ≤ 255 ∧ g.refs ≤ 256 ∧ g.base < 262144 ∧ g.len ≤ 262144 ∧ g.play ≤ 262144 ∧
      g.alloc ≤ 262144 ∧ g.cleared ≤ 262144 := by decide
/-- MEM-QUERY at 256 and 257. -/
theorem witness_SegmentQueries :
    Taken .segQuery (msg [0x07000000]) State.reset ∧ Taken .segQuery (msg [0x07000000]) (withSeg .opened 0) ∧
      Taken .segQuery (msg [0x07000000]) (withSeg .clearing 0) ∧
      (withSeg .clearing 0).mem.clearList.head? = some 7 ∧
      (seg7 .clearing 0).cleared < (seg7 .clearing 0).alloc ∧ (seg7 .opened 0).state ≠ .clearing ∧
      StoreOk (withSeg .clearing 0) ∧ Taken .memQuery (msg [256]) State.reset ∧
      (msg [256]).payload.length = 1 ∧ bitsOf 256#32 8 0 ≤ 256 ∧ 256 < bitsOf 257#32 8 0 := by
  simp only [StoreOk]; decide +kernel

/-- LIST-APPEND: out of range, not sealed, full at 64, undefined, accepted at 63. -/
theorem witness_ListAppend :
    let m := msg0 (recordWords memStep)
    let long := fun n => with0 (withSeg .sealed 0) (placed (List.replicate n ⟨streamStep, 0⟩) .idle .waiting)
    Taken .listAppend m (long 64) ∧ Taken .listAppend m (long 63) ∧ Taken .listAppend m State.reset ∧
      Taken .listAppend m (withSeg .opened 0) ∧ m.payload.length = 7 ∧ readRecord m.payload = memStep ∧
      memStep.inRange = true ∧ (readRecord (List.replicate 7 0)).inRange = false ∧
      findSeg (withSeg .opened 0).mem.segs 7 = some (seg7 .opened 0) ∧ (seg7 .opened 0).state ≠ .sealed ∧
      findSeg State.reset.mem.segs 7 = none ∧ findSeg (long 63).mem.segs 7 = some (seg7 .sealed 0) ∧
      ((long 64).ch .ch0).list.length = 64 ∧ ((long 63).ch .ch0).list.length = 63 := by decide +kernel
/-- LIST-REPLACE: the index at the length and below it, in each playback state. -/
theorem witness_ListReplace :
    let m := fun i : Word => msg0 (i :: recordWords memStep)
    Taken .listReplace (m 1) (memState .idle) ∧ (m 1).payload.length = 8 ∧
      ((memState .idle).ch .ch0).list.length ≤ 1 ∧
      ((memState .idle).ch .ch0).list[0]? = some ⟨memStep, 0⟩ ∧
      readRecord ((m 0).payload.drop 1) = memStep ∧
      ((memState .armed).ch .ch0).playback = .armed ∧ ((memState .running).ch .ch0).playback = .running ∧
      ((memState .idle).ch .ch0).playback = .idle ∧ ((memState .done).ch .ch0).playback = .done ∧
      findSeg (memState .done).mem.segs 7 = some (seg7 .sealed 1) := by decide +kernel
theorem witness_ListAppendAndReplace_segments :
    (∀ id g, memStep.source = .memory id → findSeg (withSeg .sealed 0).mem.segs id = some g →
      g.state = .sealed) ∧
    (∀ id, memStep.source = .memory id → (findSeg (withSeg .sealed 0).mem.segs id).isSome = true) ∧
    (∀ id, memStep.source = .memory id → findSeg State.reset.mem.segs id = none) ∧
    (∀ id g, memStep.source = .memory id → findSeg (withSeg .opened 0).mem.segs id = some g →
      g.state ≠ .sealed) ∧
    ∀ id, memStep.source = .memory id →
      ∃ g, findSeg (withSeg .sealed 1).mem.segs id = some g ∧ g.state = .sealed := by
  have h : ∀ id, memStep.source = .memory id → id = 7 := by
    intro id hid; cases hid; rfl
  refine ⟨?_, ?_, ?_, ?_, ?_⟩
  · intro id g hi hg; cases h id hi; cases hg; rfl
  · intro id hi; cases h id hi; rfl
  · intro id hi; cases h id hi; rfl
  · intro id g hi hg; cases h id hi; cases hg; decide
  · intro id hi; cases h id hi; exact ⟨_, rfl, rfl⟩
theorem witness_ListClearAndRead :
    Taken .listClear (msg0 []) (memState .armed) ∧ Taken .listClear (msg0 []) (memState .done) ∧
      (msg0 []).payload.length = 0 ∧ Taken .listRead (msg0 [1]) (memState .running) ∧
      (msg0 [1]).payload.length = 1 ∧ ((memState .running).ch .ch0).list.length ≤ bitsOf 1#32 7 0 ∧
      ((memState .running).ch .ch0).list[bitsOf 0#32 7 0]? = some ⟨memStep, 0⟩ := by decide +kernel

/-- CH-CONFIG: Lmin = Lmax = park, marks 8191 and 8192, prime level 8192; then each bound broken. -/
theorem witness_ChannelConfiguration :
    let m := msg0 [0x80008000, 0x80000001, 0x1FFF2000, 0x00002000]
    Taken .chConfig m State.reset ∧ Taken .chConfig m (memState .running) ∧ Taken .chConfig m (memState .done) ∧
      m.payload.length = 4 ∧ signedOf 0x80008000#32 31 16 ≤ signedOf 0x80008000#32 15 0 ∧
      signedOf 0x80000001#32 31 16 = signedOf 0x80008000#32 15 0 ∧ bitsOf 0x80000001#32 1 0 ≤ 1 ∧
      bitsOf 0x1FFF2000#32 29 16 = 8191 ∧ bitsOf 0x1FFF2000#32 13 0 = 8192 ∧
      bitsOf 0x00002000#32 13 0 = 8192 ∧
      ¬ bitsOf 0x80000002#32 1 0 ≤ 1 ∧ ¬ bitsOf 0x20002000#32 29 16 ≤ 8191 ∧
      ¬ 1 ≤ bitsOf 0x00000000#32 13 0 ∧ ¬ bitsOf 0x00002001#32 13 0 ≤ 8192 := by decide +kernel
theorem witness_CueMaskAndStatus :
    Taken .chMask (msg0 [0xFFFFFFFF, 0xFFFFFFFF]) (memState .running) ∧
      (msg0 [0xFFFFFFFF, 0xFFFFFFFF]).payload.length = 2 ∧ Taken .chStatus (msg0 []) (memState .running) ∧
      (msg0 []).payload.length = 0 := by decide +kernel

/-- A channel with every field of its status at the top of its range. -/
theorem witness_CueMaskAndStatus_layout :
    let c : Channel := { Channel.reset with
      list := List.replicate 64 ⟨streamStep, 0⟩
      run := { start := .cue 63, step := 63, i := 262143, f := 65535, repeatsLeft := 65535,
               markerLeft := 65535, consumed := 16777215 }
      hold := -32768
      stream := ⟨List.replicate 8192 0, 16777215⟩ }
    c.list.length ≤ 64 ∧ c.run.step < 64 ∧ c.run.i < 262144 ∧ c.run.f < 65536 ∧
      c.run.repeatsLeft < 65536 ∧ c.run.markerLeft < 65536 ∧ (-32768) ≤ c.hold ∧ c.hold ≤ 32767 ∧
      c.run.consumed < 2 ^ 24 ∧ c.stream.fifo.length ≤ 8192 ∧ c.stream.debt < 2 ^ 24 := by
  decide +kernel
theorem witness_CueMaskAndStatus_cue : ∀ q, StartCond.cue 63 = .cue q → q ≤ 63 := by
  intro q h; cases h; decide

/-- CH-START: no channel named; cue 0, 64, cue with time; a SHUT, a BUSY, an empty channel; accepted. -/
theorem witness_StartChecksAndArming :
    let shut := State.reset.setPr .ch0 { state := .shut, enable := false }
    Taken .chStart (msg [0, 0, 0]) (memState .idle) ∧ (msg [0, 0, 0]).payload.length = 3 ∧
      Taken .chStart (msg [1, 0, 0]) shut ∧ Taken .chStart (msg [1, 0, 0]) (memState .running) ∧
      (flagOf 0#32 0 || flagOf 0#32 1 || flagOf 0#32 2 || flagOf 0#32 3) = false ∧
      flagOf 0x00010001#32 16 = true ∧ bitsOf 0x00010001#32 15 8 < 1 ∧
      63 < bitsOf 0x00014001#32 15 8 ∧ flagOf 0x00030101#32 17 = true ∧
      flagOf 1#32 (chNum .ch0) = true ∧ (shut.pr .ch0).state = .shut ∧
      ((memState .running).ch .ch0).playback = .running ∧ (State.reset.ch .ch0).list = [] ∧
      bitsOf 0x00013F01#32 15 8 = 63 ∧ ((memState .idle).ch .ch0).list ≠ [] ∧
      flagOf 1#32 17 = false := by decide +kernel
theorem witness_StartChecksAndArming_named :
    (∀ n : Ch, flagOf 0#32 (chNum n) = false) ∧
    (∀ n, flagOf 1#32 (chNum n) = true → ((memState .idle).pr n).state ≠ .shut) ∧
    (∀ n, flagOf 1#32 (chNum n) = true →
      ((memState .idle).ch n).playback = .idle ∨ ((memState .idle).ch n).playback = .done) ∧
    ∀ n, flagOf 1#32 (chNum n) = true → ((memState .idle).ch n).list ≠ [] := by
  refine ⟨?_, ?_, ?_, ?_⟩ <;> intro n <;> cases n <;> decide
/-- CH-START with a start time, at both ends of both ranges of T − N. -/
theorem witness_StartTimes :
    Taken .chStart (msg [0x00020001, 0, 1]) (memState .idle) ∧
      (msg [0x00020001, 0, 1]).payload.length = 3 ∧ flagOf 0x00020001#32 16 = false ∧
      flagOf 0x00020001#32 17 = true ∧ flagOf 0x00020001#32 (chNum .ch0) = true ∧
      ((1 : Counter) - 0).toNat = 1 ∧ ((0x7FFFFFFFFFFF : Counter) - 0).toNat < 2 ^ 47 ∧
      ((0 : Counter) - 0).toNat = 0 ∧ 2 ^ 47 ≤ ((0x800000000000 : Counter) - 0).toNat := by
  decide +kernel
theorem witness_StartTimes_channels :
    ∀ n, flagOf 0x00020001#32 (chNum n) = true → ((memState .idle).pr n).state ≠ .shut ∧
      (((memState .idle).ch n).playback = .idle ∨ ((memState .idle).ch n).playback = .done) ∧
      ((memState .idle).ch n).list ≠ [] := by
  intro n; cases n <;> decide
theorem witness_StopAndFlush :
    Taken .chStop (msg [0x100]) (memState .running) ∧ Taken .chStop (msg [0x101]) (memState .running) ∧
      (msg [0x101]).payload.length = 1 ∧ flagOf 0x101#32 (chNum .ch0) = true ∧
      Taken .streamFlush (msg0 []) (memState .running) ∧ (msg0 []).payload.length = 0 := by decide +kernel
theorem witness_StopAndFlush_none : ∀ n : Ch, flagOf 0x100#32 (chNum n) = false := by
  intro n; cases n <;> decide

/-- STREAM-DATA: 0 and 511 samples refused, 1 and 510 in range; the level at 8192 and above; the high mark
reached and not. -/
theorem witness_StreamDataTaken :
    let m := fun n : Nat => msg0 (List.replicate n 0)
    let holding := fun n => with0 State.reset (fun c => { c with stream := ⟨List.replicate n 0, 0⟩ })
    Taken .streamData (m 1) State.reset ∧ (samplesOf false (m 0).payload).length < 1 ∧
      510 < (samplesOf true (m 256).payload).length ∧ (samplesOf true (m 1).payload).length = 1 ∧
      (samplesOf false (m 255).payload).length = 510 ∧ 8192 < 8191 + (2 - min 2 0) ∧
      8190 + (2 - min 2 0) ≤ 8192 ∧ ((holding 3).ch .ch0).stream.fifo.length = 3 ∧
      ((holding 3).ch .ch0).settings.highMark = 7168 := by decide +kernel

/-- CUE-SEND: 63 and 64; merged; full at 8; added; cue 0 with and without a frame in flight. -/
theorem witness_CueSendPlacesTheEntry :
    Taken .cueSend (msg [64]) State.reset ∧ Taken .cueSend (msg [63]) (queueOf 8 State.reset) ∧
      Taken .cueSend (msg [0]) (sending 21 0) ∧ Taken .cueSend (msg [0]) (queueOf 7 State.reset) ∧
      (msg [64]).payload.length = 1 ∧ 63 < bitsOf 64#32 7 0 ∧ bitsOf 63#32 7 0 ≤ 63 ∧
      (∃ e ∈ (sending 21 0).cue.sendQ, e.cue = 0) ∧ ¬ (∃ e ∈ (queueOf 7 State.reset).cue.sendQ, e.cue = 0) ∧
      8 ≤ (queueOf 8 State.reset).cue.sendQ.length ∧ (queueOf 7 State.reset).cue.sendQ.length < 8 ∧
      (queueOf 7 State.reset).cue.inFlight = none ∧ (sending 21 0).cue.inFlight ≠ none := by decide +kernel
/-- Cue 0 sent while a frame is in flight and none of the queue is cue 0. -/
theorem witness_CueSendPlacesTheEntry_second :
    let s := State.reset.setCue { sendQ := [⟨21, .cueSend, 0⟩], inFlight := some ⟨.one, .startHold⟩ }
    Taken .cueSend (msg [0]) s ∧ s.cue.inFlight ≠ none ∧ s.cue.sendQ = ⟨21, .cueSend, 0⟩ :: [] ∧
      ¬ (∃ e ∈ s.cue.sendQ, e.cue = 0) := by decide +kernel
theorem witness_TriggersPushTheirCue :
    let armed := fun q cue => (queueOf q State.reset).setCue { (queueOf q State.reset).cue with
      trig0 := ⟨true, .rising, cue, false, true⟩ }
    Taken .trigConfig (msg [0x0201003F]) State.reset ∧ (msg [0x0201003F]).payload.length = 1 ∧
      1 < bitsOf 0x0201003F#32 25 24 ∧ 63 < bitsOf 0x01010040#32 7 0 ∧ bitsOf 0x0101003F#32 7 0 ≤ 63 ∧
      bitsOf 0x0101003F#32 25 24 = 1 ∧ Between State.reset ∧ Between (armed 7 9) ∧
      (trigOf State.reset.cue .trig0).pin = (trigOf State.reset.cue .trig0).qualified ∧
      (trigOf (armed 7 9).cue .trig0).pin ≠ (trigOf (armed 7 9).cue .trig0).qualified ∧
      (armed 7 9).cue.sendQ.length < 8 ∧ 8 ≤ (armed 8 9).cue.sendQ.length ∧
      (trigOf (armed 8 9).cue .trig0).edge = .rising ∧
      (∃ e ∈ (sending 21 0).cue.sendQ, e.cue = 0) := by decide +kernel

/-- For TransmitterMoves: idle at 2H and not, a frame at its stop made, lost, and neither; the third and the
fourth loss. -/
theorem witness_TransmitterMoves :
    let idle := fun b => State.reset.setCue { sendQ := [⟨5, .cueSend, 0⟩], idleEnough := b }
    Between (idle true) ∧ (idle true).cue.inFlight = none ∧ lineIdle (idle true).cue = true ∧
      (idle true).cue.sendQ ≠ [] ∧ (idle true).cue.idleEnough = true ∧ (idle false).cue.idleEnough = false ∧
      (sendingIn .made 21 0).cue.inFlight = some ⟨.one, .made⟩ ∧
      (sendingIn .lost 21 3).cue.inFlight = some ⟨.one, .lost⟩ ∧ 4 ≤ 3 + 1 ∧ 2 + 1 < 4 ∧
      (sendingIn .lost 21 2).cue.sendQ = ⟨21, .cueSend, 2⟩ :: [⟨0, .cueSend, 0⟩] ∧
      State.reset.cue.sendQ = [] := by decide
/-- For FrameOnTheWires: a start hold, the low, waiting and high halves of bit 1, the stop's high half and test, on a
line that others leave alone or pull. -/
theorem witness_FrameOnTheWires :
    let c := fun (p : SendPhase) (bits : List Bool) (own ckOthers dtOthers : Bool) =>
      ({ sendQ := [⟨32, .cueSend, 0⟩], inFlight := some ⟨.one, p⟩, receiver := .inside bits (p == .startHold)
         ck := ⟨own, ckOthers⟩
         dt := ⟨p == .startHold || p == .high 7, dtOthers⟩ } : CueController)
    Between State.reset ∧ rowDue (c .startHold [] false false false) = false ∧
      (c .startHold [] false false false).ck = ⟨false, false⟩ ∧
      (c .startHold [] false false false).dt = ⟨true, false⟩ ∧
      rowDue (c (.low 0) [] true true false) = false ∧ (c (.low 0) [] true true true).ck = ⟨true, true⟩ ∧
      rowDue (c (.wait 0) [] false true true) = false ∧ (c (.wait 0) [] false true true).ck = ⟨false, true⟩ ∧
      (frameBits 32).getD 0 false = true ∧ (c (.low 0) [] true false true).dt.own = !(frameBits 32).getD 0 false ∧
      rowDue (c (.high 0) [] false false false) = false ∧
      rowDue (c (.high 7) (frameBits 32) false false true) = false ∧ (frameBits 32).length = 7 ∧
      (frameBits 32)[7]? = none ∧
      rowDue (c .stopTest (frameBits 32) false false true) = false ∧
      (c .stopTest (frameBits 32) false false true).dt = ⟨false, true⟩ := by decide
/-- For ReceiverJudgesFrames: no bit, seven even, seven odd, six and eight bits; the delivery list at 15 and 16;
the line idle, and low. -/
theorem witness_ReceiverJudgesFrames :
    let is := fun (r : Receiver) n => State.reset.setCue
      { receiver := r, delivery := List.replicate n ⟨5, 100⟩ }
    Between (is .reopened 0) ∧ (is (.ended (frameBits 18)) 15).cue.receiver = .ended (frameBits 18) ∧
      (is (.ended []) 15).cue.delivery.length < 16 ∧ 16 ≤ (is (.ended []) 16).cue.delivery.length ∧
      (frameBits 18).length = 7 ∧ (frameBits 18).count true % 2 = 0 ∧
      [true, false, false, false, false, false, false].count true % 2 = 1 ∧
      (List.replicate 6 false).length ≠ 7 ∧ (List.replicate 8 false).length ≠ 7 ∧
      State.reset.cue.receiver = .outside ∧ State.reset.cue.inFlight = none ∧
      State.reset.cue.ck.low = false ∧ State.reset.cue.dt.low = false ∧ rowDue State.reset.cue = false ∧
      (State.reset.setCue { ck := ⟨false, true⟩ }).cue.ck.low = true ∧
      ({ receiver := .inside [] true } : CueController).ck = ⟨false, false⟩ ∧
      ({ receiver := .inside (frameBits 18) false, dt := ⟨false, true⟩ } : CueController).dt =
        ⟨false, true⟩ := by decide +kernel
/-- For StuckLines: a line released, reported, high, or low with nothing to count for; low while waiting, and while
sending with the third and the fourth loss. -/
theorem witness_StuckLines :
    let low := fun q r => State.reset.setCue { sendQ := q, receiver := r, ck := ⟨false, true⟩ }
    let sends := fun k => State.reset.setCue
      { sendQ := [⟨21, .cueSend, k⟩], inFlight := some ⟨.one, .wait 0⟩, receiver := .inside [] false
        ck := ⟨false, true⟩, dt := ⟨true, false⟩ }
    Between (sends 3) ∧ State.reset.cue.inFlight = none ∧ rowDue State.reset.cue = false ∧
      (wireOf (low [] .outside).cue .cueck).own = false ∧ (wireOf (low [] .outside).cue .cueck).low = true ∧
      stuckReported (State.reset.setCue { stuckCk := true }).cue .cueck = true ∧
      (wireOf State.reset.cue .cuedt).low = false ∧
      (low [] .outside).cue.sendQ = [] ∧ (low [] .outside).cue.receiver = .outside ∧
      stuckReported (low [⟨5, .cueSend, 0⟩] .outside).cue .cueck = false ∧
      (low [⟨5, .cueSend, 0⟩] .outside).cue.sendQ ≠ [] ∧ (low [] (.inside [] true)).cue.receiver ≠ .outside ∧
      rowDue (sends 2).cue = false ∧ (wireOf (sends 2).cue .cueck).low = true ∧
      stuckReported (sends 2).cue .cueck = false ∧ (sends 2).cue.inFlight ≠ none ∧
      (sends 2).cue.sendQ = ⟨21, .cueSend, 2⟩ :: [] ∧ 4 ≤ 3 + 1 ∧ 2 + 1 < 4 := by decide

/-- A fault input in each state the statement tells apart. -/
theorem witness_FaultInputs :
    let p := fun (x : ProtState) (c : DerateCause) => State.reset.setPr .ch0
      { state := x, cause := c, asserted := true, qual := .running, escalating := true, enable := x != .shut }
    Between (p .normal .none) ∧ ((p .normal .none).pr .ch0).asserted = true ∧
      (State.reset.pr .ch0).asserted = false ∧ (State.reset.pr .ch0).qual ≠ .running ∧
      ((p .normal .none).pr .ch0).qual = .running ∧ ((p .derated .temp).pr .ch0).cause = .temp ∧
      ((p .derated .fault).pr .ch0).cause ≠ .temp ∧ ((p .derated .fault).pr .ch0).escalating = true ∧
      ((p .shut .fault).pr .ch0).state = .shut ∧ (State.reset.pr .ch0).escalating = false := by decide
theorem witness_RestoreReturnsToNormal :
    let s := fun a => State.reset.setPr .ch0 { state := .derated, cause := .fault, asserted := a }
    Taken .chRestore (msg0 []) (s true) ∧ Taken .chRestore (msg0 []) (s false) ∧
      Taken .chRestore (msg0 []) State.reset ∧ (msg0 []).payload.length = 0 ∧
      ((s true).pr .ch0).state ≠ .normal ∧ ((s true).pr .ch0).asserted = true ∧
      ((s false).pr .ch0).asserted = false ∧ (State.reset.pr .ch0).state = .normal := by decide
/-- The die in a temperature state, every channel NORMAL but for LOCK. -/
def atTemp (x : TempState) : State :=
  if x = .lock then after (.tempReading 145) State.reset else State.reset.setTemp ⟨x, 100⟩

theorem witness_TemperatureTransitions :
    Between (atTemp .cool) ∧ Between (atTemp .warm) ∧ Between (atTemp .lock) ∧
      (atTemp .cool).temp.state = .cool ∧ (atTemp .warm).temp.state = .warm ∧
      (atTemp .lock).temp.state = .lock ∧ (-40 : Int) ≤ -40 ∧ (150 : Int) ≤ 150 := by decide +kernel
/-- From COOL: 109, then 110 and 139, then 140, each met by its clause and told to the part. -/
theorem witness_TemperatureTransitions_cool :
    (109 : Int) < 110 ∧ (110 : Int) ≤ 110 ∧ (139 : Int) < 140 ∧ (140 : Int) ≤ 140 ∧
      (after (.tempReading 109) (atTemp .cool)).temp = ⟨.cool, 109⟩ ∧
      (after (.tempReading 110) (atTemp .cool)).temp = ⟨.warm, 110⟩ ∧
      (after (.tempReading 139) (atTemp .cool)).temp = ⟨.warm, 139⟩ ∧
      (after (.tempReading 140) (atTemp .cool)).temp = ⟨.lock, 140⟩ := by decide +kernel
/-- From WARM: 95, then 96 and 139, then 140. -/
theorem witness_TemperatureTransitions_warm :
    (95 : Int) ≤ 95 ∧ (95 : Int) < 96 ∧ (139 : Int) < 140 ∧ (140 : Int) ≤ 140 ∧
      (after (.tempReading 95) (atTemp .warm)).temp = ⟨.cool, 95⟩ ∧
      (after (.tempReading 96) (atTemp .warm)).temp = ⟨.warm, 96⟩ ∧
      (after (.tempReading 139) (atTemp .warm)).temp = ⟨.warm, 139⟩ ∧
      (after (.tempReading 140) (atTemp .warm)).temp = ⟨.lock, 140⟩ := by decide +kernel
/-- From LOCK: 95, then 96 and 125, then 126. -/
theorem witness_TemperatureTransitions_lock :
    (95 : Int) ≤ 95 ∧ (95 : Int) < 96 ∧ (125 : Int) ≤ 125 ∧ (125 : Int) < 126 ∧
      (after (.tempReading 95) (atTemp .lock)).temp = ⟨.cool, 95⟩ ∧
      (after (.tempReading 96) (atTemp .lock)).temp = ⟨.warm, 96⟩ ∧
      (after (.tempReading 125) (atTemp .lock)).temp = ⟨.warm, 125⟩ ∧
      (after (.tempReading 126) (atTemp .lock)).temp = ⟨.lock, 126⟩ := by decide +kernel
theorem witness_ReportsAndPulseEnd :
    Taken .nop (msg (List.replicate 256 0)) locked ∧ Taken .identify (msg []) locked ∧ (msg []).payload = [] ∧
      Taken .identify (msg [0]) locked ∧ (msg [0]).payload ≠ [] ∧ Taken .devStatus (msg []) locked ∧
      Taken .devStatus (msg [0]) locked ∧ Between State.reset ∧
      Between (State.reset.setEvents { pulse := true }) ∧
      (State.reset.setEvents { pulse := true }).events.pulse = true ∧ State.reset.events.pulse = false := by
  decide +kernel
/-- The divider at 0, 1, 256 and 257; a channel ARMED or RUNNING, and none. -/
theorem witness_DeviceConfiguration :
    Taken .devConfig (msg [0]) State.reset ∧ (msg [0]).payload.length = 1 ∧ bitsOf 0#32 24 16 < 1 ∧
      256 < bitsOf 0x01010000#32 24 16 ∧ 1 ≤ bitsOf 0x00010000#32 24 16 ∧
      bitsOf 0x01000000#32 24 16 = 256 ∧ Taken .devConfig (msg [0x01000000]) (memState .running) ∧
      ((memState .running).ch .ch0).playback = .running ∧ (State.reset.dev.pendingDivider.getD 1) = 1 := by
  decide +kernel
/-- With a change pending; with the edge with count 0 passed; and a period that can have it inside. -/
theorem witness_DeviceConfiguration_passed :
    let d := fun p z => State.reset.setDev
      { divider := 4, pendingDivider := p, refEdge := some 253, zeroPassed := z }
    Taken .devConfig (msg [0x00041000]) (d (some 9) false) ∧ Taken .devConfig (msg [0x00041000]) (d none true) ∧
      (d (some 9) false).dev.pendingDivider ≠ none ∧ (d none true).dev.zeroPassed = true ∧
      256 < 253 + (d none false).dev.divider ∧ bitsOf 0x00041000#32 24 16 = 4 := by decide
theorem witness_DeviceConfiguration_idle :
    ¬ ∃ n, (State.reset.ch n).playback = .armed ∨ (State.reset.ch n).playback = .running := by
  rintro ⟨n, h⟩; cases n <;> exact absurd h (by decide)
/-- R179: the values of CUE_LOST, CUE_DROPPED and CUE_ERROR, as bits. -/
theorem test_cue_event_values :
    cueSourceValue 63 (.trigger .trig1) = 0x33F#32 ∧ cueSourceValue 5 (.stepEmit .ch1 2) = 0x105#32 ∧
      (CueErrorReason.overrun 63).value = 0x3F04#32 := by decide
/-- MAX at 0, 1, 32 and 33; the largest cue. -/
theorem witness_EventReadTakesTheOldest :
    Taken .eventRead (msg [0]) (eventsOf 32) ∧ (msg [0]).payload.length = 1 ∧ bitsOf 0#32 7 0 < 1 ∧
      1 ≤ bitsOf 1#32 7 0 ∧ bitsOf 32#32 7 0 ≤ 32 ∧ 32 < bitsOf 33#32 7 0 ∧ 63 ≤ 63 := by decide +kernel
theorem witness_EventReadTakesTheOldest_layout :
    ∀ k, (⟨.overload, some .ch3, some 63, none, 0⟩ : Event).step = some k → k ≤ 63 := by
  intro k h; cases h; decide

/-- For PlaybackResetEffect and FullResets. -/
theorem witness_PlaybackResetEffect :
    Taken .devReset (msg [1]) locked ∧ (msg [1]).payload.length = 1 := by decide
theorem witness_FullResets :
    held.resetHeld = true ∧ Taken .devReset (msg [2]) locked ∧ (msg [2]).payload.length = 1 := by decide
/-- For PlaybackResetEffect and FullResets: a frame in its start hold, a high half of a 0 with seven bits kept, a
low half. -/
theorem witness_PlaybackResetEffect_frames :
    let f := fun p bits started ck => State.reset.setCue
      { sendQ := [⟨5, .cueSend, 0⟩], inFlight := some ⟨.one, p⟩, receiver := .inside bits started
        ck := ⟨ck, false⟩, dt := ⟨true, false⟩ }
    Taken .devReset (msg [1]) (f .startHold [] true false) ∧
      Taken .devReset (msg [1]) (f (.high 7) (frameBits 5) false false) ∧
      Taken .devReset (msg [2]) (f (.low 0) [] false true) ∧
      (f .startHold [] true false).cue.ck.low = false ∧ (f .startHold [] true false).cue.dt.own = true ∧
      (frameBits 5).length = 7 ∧ (f (.low 0) [] false true).cue.ck.low = true := by decide
/-- The edges a DEV-RESET ALL can find passed: a switch due at the very next edge, the edge with count 0
passed in a period of 4 from 254, and none pending. -/
theorem witness_FullResets_edges :
    let d := fun e p z => ({ refEdge := some e, divider := 4, pendingDivider := p, zeroPassed := z } : Device)
    Taken .devReset (msg [2]) (State.reset.setDev (d 255 (some 9) false)) ∧
      leastEdges 255 (d 255 (some 9) false) = 0 ∧ edgesToBoundary 255 (d 255 (some 9) false) = 1 ∧
      leastEdges 254 (d 254 (some 9) true) = 2 ∧ edgesToBoundary 254 (d 254 (some 9) true) = 4 ∧
      leastEdges 7 (d 7 none false) = 0 ∧ edgesToBoundary 7 (d 7 none false) = 4 := by decide
/-- The readings 109, 110, 139 and 140 at power-on: COOL, WARM, WARM, LOCK. -/
theorem witness_FullResets_readings :
    (pinsAt 109).reading < 110 ∧ 110 ≤ (pinsAt 110).reading ∧ (pinsAt 139).reading < 140 ∧
      140 ≤ (pinsAt 140).reading ∧
      (after (.powerOn (pinsAt 109)) locked).temp = ⟨.cool, 109⟩ ∧
      (after (.powerOn (pinsAt 110)) locked).temp = ⟨.warm, 110⟩ ∧
      (after (.powerOn (pinsAt 139)) locked).temp = ⟨.warm, 139⟩ ∧
      (after (.powerOn (pinsAt 140)) locked).temp = ⟨.lock, 140⟩ := by decide +kernel
/-- The same readings at the end of a pin reset and at a DEV-RESET ALL. -/
theorem witness_FullResets_other_resets :
    (after (.pinResetEnd (pinsAt 109)) held).temp.state = .cool ∧
      (after (.pinResetEnd (pinsAt 110)) held).temp.state = .warm ∧
      (after (.pinResetEnd (pinsAt 139)) held).temp.state = .warm ∧
      (after (.pinResetEnd (pinsAt 140)) held).temp.state = .lock ∧
      (after (.devResetAll (msg [2]) 109) locked).temp.state = .cool ∧
      (after (.devResetAll (msg [2]) 110) locked).temp.state = .warm ∧
      (after (.devResetAll (msg [2]) 139) locked).temp.state = .warm ∧
      (after (.devResetAll (msg [2]) 140) locked).temp.state = .lock := by decide +kernel
theorem witness_HeldResetDrivesOutputs :
    Between State.reset ∧ State.reset.resetHeld = false ∧ held.resetHeld = true ∧ (∀ p, Instr.frameStart [] ≠ .powerOn p) ∧
      (∀ p, Instr.frameStart [] ≠ .pinResetEnd p) ∧ State.reset.freeIndex = 0 ∧ State.reset.pending = [] := by
  refine ⟨by decide, rfl, rfl, ?_, ?_, rfl, rfl⟩ <;> intro p h <;> cases h
/-- A divider of 4 in force and 9 pending: due from an edge 252 but not 251, nor where the edge with count 0 has
passed; due at the first edge; and none pending. -/
theorem witness_EveryBoundaryPresentsOnce :
    let d := fun e z => State.reset.setDev
      { divider := 4, pendingDivider := some 9, refEdge := e, zeroPassed := z }
    State.reset.resetHeld = false ∧ State.reset.boundaryOpen = false ∧
      State.reset.dev.pendingDivider = none ∧ (opened State.reset).resetHeld = false ∧
      (opened State.reset).boundaryOpen = true ∧ (d (some 251) false).dev.pendingDivider = some 9 ∧
      (d (some 251) false).resetHeld = false ∧ (d (some 251) false).boundaryOpen = false ∧
      251 + (d (some 251) false).dev.divider < 256 ∧ 256 ≤ 252 + (d (some 252) false).dev.divider ∧
      (d (some 252) false).dev.zeroPassed = false ∧ (d (some 252) true).dev.zeroPassed = true ∧
      (d none false).dev.refEdge = none := by decide
/-- R183: the counter edge by edge about a switch; the divider 9 takes force at the edge with count 0. -/
theorem test_pending_divider_waits :
    let d := fun e z => (after (.sampleBoundary [] []) (State.reset.setDev
      { divider := 4, pendingDivider := some 9, refEdge := some e, zeroPassed := z })).dev
    (d 251 false).refEdge = some 255 ∧ (d 251 false).divider = 4 ∧ (d 251 false).pendingDivider = some 9 ∧
      (d 252 false).refEdge = some 0 ∧ (d 252 false).divider = 9 ∧ (d 252 false).pendingDivider = none ∧
      (d 254 false).refEdge = some 0 ∧ (d 254 true).refEdge = some 2 ∧ (d 254 true).divider = 4 := by
  decide +kernel

/-- The state once the boundary is reached. -/
def reached (s : State) : State := openBoundary [] s

/-- Every playback state and phase that presents no played sample, at a boundary told whole and at one that
stands open. -/
theorem witness_UnplayedCodes :
    AtCodes (reached (memState .idle)) ∧ ((reached (memState .idle)).ch .ch0).playback = .idle ∧
      AtCodes (reached (opened (memState .armed))) ∧
      ((reached (opened (memState .armed))).ch .ch0).playback = .armed ∧
      AtCodes (reached (memState .armed)) ∧ ((reached (memState .armed)).ch .ch0).playback = .armed ∧
      AtCodes (reached (memState .done)) ∧ ((reached (memState .done)).ch .ch0).playback = .done ∧
      AtCodes (reached (streamState .waiting)) ∧
      ((reached (streamState .waiting)).ch .ch0).run.phase = .waiting ∧
      AtCodes (reached (streamState .priming)) ∧
      ((reached (streamState .priming)).ch .ch0).run.phase = .priming ∧
      ((reached (streamState .priming)).ch .ch0).record = some streamStep ∧
      ((reached (streamState .priming)).ch .ch0).stream.fifo.length <
        min (3000 - ((reached (streamState .priming)).ch .ch0).run.consumed) 1024 := by decide +kernel
/-- One sample below the requirement: 1023 held, 1024 asked. -/
theorem witness_UnplayedCodes_priming :
    let s := reached (with0 (streamState .priming) (fun c =>
      { c with stream := ⟨List.replicate 1023 0, 0⟩ }))
    AtCodes s ∧ (s.ch .ch0).stream.fifo.length < min (3000 - (s.ch .ch0).run.consumed) 1024 := by
  decide +kernel
/-- At position 14 the next is inside the segment; at 15 the step reaches its repeat boundary: deferred, or
gone on with (repeats remaining 2), or ended (repeats remaining 1, or the leave flag set). -/
theorem witness_MemorySamplePlayed :
    let s := fun i left leave => reached (with0 (memState .running) (fun c =>
      { c with run := { c.run with i := i, repeatsLeft := left, leave := leave } }))
    AtCodes (s 14 2 false) ∧ ((s 14 2 false).ch .ch0).playback = .running ∧
      ((s 14 2 false).ch .ch0).run.phase = .playing ∧
      ((s 14 2 false).ch .ch0).list[((s 14 2 false).ch .ch0).run.step]? = some ⟨memStep, 0⟩ ∧
      memStep.source = .memory 7 ∧ findSeg (s 14 2 false).mem.segs 7 = some (seg7 .sealed 1) ∧
      14 + (0 + memStep.rate) / 65536 < 16 ∧ AtCodes (s 15 2 false) ∧
      16 ≤ 15 + (0 + memStep.rate) / 65536 ∧ Ch.ch0 ∈ [Ch.ch0] ∧ Ch.ch0 ∉ [Ch.ch1] ∧
      ((s 15 2 false).ch .ch0).run.leave = false ∧ 1 < ((s 15 2 false).ch .ch0).run.repeatsLeft ∧
      memStep.repeats ≠ 0 ∧ ¬ 1 < ((s 15 1 false).ch .ch0).run.repeatsLeft ∧
      ((s 15 2 true).ch .ch0).run.leave = true := by decide +kernel
/-- A sample held, at 2998 and at 2999 of 3000 consumed; and an empty buffer. -/
theorem witness_StreamSamplePlayedOrUnderrun :
    let s := fun l k => reached (with0 (streamState .playing) (fun c =>
      { c with stream := ⟨l, 0⟩, run := { c.run with consumed := k } }))
    AtCodes (s [1, 2] 2998) ∧ ((s [1, 2] 2998).ch .ch0).playback = .running ∧
      ((s [1, 2] 2998).ch .ch0).run.phase = .playing ∧
      ((s [1, 2] 2998).ch .ch0).list[((s [1, 2] 2998).ch .ch0).run.step]? = some ⟨streamStep, 0⟩ ∧
      streamStep.source = .stream ∧ ((s [1, 2] 2998).ch .ch0).stream.fifo = 1 :: [2] ∧
      ((s [1, 2] 2998).ch .ch0).run.consumed + 1 < 3000 ∧
      3000 ≤ ((s [1, 2] 2999).ch .ch0).run.consumed + 1 ∧ AtCodes (s [1, 2] 2999) ∧
      AtCodes (s [] 1) ∧ ((s [] 1).ch .ch0).stream.fifo = [] ∧ Ch.ch0 ∈ [Ch.ch0] ∧ Ch.ch0 ∉ [Ch.ch1] := by
  decide +kernel
/-- Repeats remaining 2 and 1, the leave flag set, and no boundary owed. -/
theorem witness_RepeatBoundaryResolved :
    let s := fun left leave => with0 (memState .running) (fun c => { c with
      run := { c.run with i := 15, repeatsLeft := left, leave := leave, owed := .repeatBoundary } })
    (s 2 false).resetHeld = false ∧ ((s 2 false).ch .ch0).playback = .running ∧
      ((s 2 false).ch .ch0).run.owed = .repeatBoundary ∧ ((s 2 false).ch .ch0).record = some memStep ∧
      findSeg (s 2 false).mem.segs 7 = some (seg7 .sealed 1) ∧ 1 < ((s 2 false).ch .ch0).run.repeatsLeft ∧
      ((s 1 false).ch .ch0).run.repeatsLeft ≤ 1 ∧ ((s 2 true).ch .ch0).run.leave = true ∧
      memStep.repeats ≠ 0 ∧ ((memState .idle).ch .ch0).playback ≠ .running ∧
      ((memState .running).ch .ch0).run.owed ≠ .repeatBoundary := by decide +kernel
/-- A jump taken below the length, and a step end at the length. -/
theorem witness_StepEndFollowsTheJump :
    let s := with0 (streamState .playing) (fun c => { c with
      list := [⟨{ streamStep with jump := some ⟨0, 1⟩ }, 1⟩]
      run := { c.run with owed := .streamEnd } })
    (s.ch .ch0).list[(s.ch .ch0).run.step]? = some ⟨{ streamStep with jump := some ⟨0, 1⟩ }, 1⟩ ∧
      0 < (s.ch .ch0).list.length ∧ ((streamState .playing).ch .ch0).list[0]? = some ⟨streamStep, 0⟩ ∧
      ((streamState .playing).ch .ch0).list.length ≤ 0 + 1 ∧ s.resetHeld = false ∧
      (s.ch .ch0).playback = .running ∧ (s.ch .ch0).run.owed = .streamEnd ∧
      ((memState .idle).ch .ch0).playback ≠ .running := by decide +kernel
theorem witness_StartTimeEntersStepZero :
    let s := with0 (memState .armed) (fun c => { c with
      run := { c.run with start := .time 1, startAt := some 1 } })
    s.resetHeld = false ∧ s.boundaryOpen = false ∧ (opened s).boundaryOpen = true ∧
      s.dev.counter + 1 = 1 ∧ (s.ch .ch0).playback = .armed ∧ (s.ch .ch0).run.start = .time 1 ∧
      (s.ch .ch0).run.startAt = some 1 ∧ (s.ch .ch0).list[0]? = some ⟨memStep, 0⟩ ∧
      entryOf 1 (s.ch .ch0) = some 0 ∧ ((memState .idle).ch .ch0).playback ≠ .armed := by decide +kernel
/-- Entry at SAMPLE_BOUNDARY: a next index, and a channel ARMED with start condition none. -/
theorem witness_StartTimeEntersStepZero_others :
    let nextIdx := with0 (memState .running) (fun c => { c with run := { c.run with next := some 0 } })
    let none_ := after (.chStart (msg [1, 0, 0])) (memState .idle)
    entryOf 1 (nextIdx.ch .ch0) = some 0 ∧ entryOf 1 (none_.ch .ch0) = some 0 ∧
      (reached nextIdx).ch .ch0 = (reached none_).ch .ch0 ∧
      ((reached none_).ch .ch0).playback = .running := by decide +kernel
/-- The three outcomes of an emitted cue, and an owed end of each kind. -/
theorem witness_StartTimeEntersStepZero_pushes :
    (0 = 0 ∧ ∃ e ∈ (sending 21 0).cue.sendQ, e.cue = 0) ∧
      8 ≤ (queueOf 8 State.reset).cue.sendQ.length ∧ (queueOf 7 State.reset).cue.sendQ.length < 8 ∧
      (∃ t, exec (.repeatBoundary .ch0) (memState .running) = .next t) :=
  ⟨by decide, by decide, by decide, _, rfl⟩
/-- The requirement met exactly, and by one sample not; the marker spent, and not; the divider due at the
first edge of all and where the period ends exactly at the edge with count 0, and not where it ends one
edge before it. -/
theorem witness_PrimingMarkerAndDivider :
    let full := fun n => reached (with0 (streamState .priming) (fun c =>
      { c with stream := ⟨List.replicate n 0, 0⟩ }))
    let spent := fun k => reached (with0 (streamState .playing) (fun c =>
      { c with run := { c.run with markerLeft := k } }))
    let div := fun e => State.reset.setDev { pendingDivider := some 4, refEdge := e }
    AtCodes (full 1024) ∧ ((full 1024).ch .ch0).playback = .running ∧
      ((full 1024).ch .ch0).record = some streamStep ∧ ((full 1024).ch .ch0).run.phase = .priming ∧
      min (3000 - 0) 1024 ≤ ((full 1024).ch .ch0).stream.fifo.length ∧ AtCodes (full 1023) ∧
      ¬ min (3000 - 0) 1024 ≤ ((full 1023).ch .ch0).stream.fifo.length ∧
      ((spent 0).ch .ch0).run.phase = .playing ∧ ((spent 0).ch .ch0).run.markerLeft = 0 ∧
      ((spent 1).ch .ch0).run.markerLeft ≠ 0 ∧ streamStep.marker ≠ none ∧
      (div none).resetHeld = false ∧ (div none).boundaryOpen = false ∧
      (div none).dev.pendingDivider = some 4 ∧ (div none).dev.refEdge = none ∧
      (div (some 255)).dev.refEdge = some 255 ∧ 256 ≤ 255 + (div (some 255)).dev.divider ∧
      (div (some 255)).dev.zeroPassed = false ∧ ¬ 256 ≤ 254 + (div (some 254)).dev.divider ∧
      State.reset.dev.pendingDivider = none := by decide +kernel
/-- Cue 0 due at a boundary that stands open, and at the next one; cue 6 due behind an entry that is not. -/
theorem witness_StopCueStopsEveryChannel :
    let s := fun c e => (memState .running).setCue { delivery := [⟨5, 9⟩, ⟨c, e⟩, ⟨6, 9⟩] }
    (s 0 0).resetHeld = false ∧
      (reached (opened (s 0 0))).dev.counter = 0 ∧ (reached (s 0 1)).dev.counter = 1 ∧
      (opened (s 0 0)).cue.delivery = [⟨5, 9⟩] ++ ⟨0, 0⟩ :: [⟨6, 9⟩] ∧
      (s 6 1).cue.delivery = [⟨5, 9⟩] ++ ⟨6, 1⟩ :: [⟨6, 9⟩] ∧
      (∀ d ∈ [(⟨5, 9⟩ : Delivery)], d.effect ≠ 1 ∧ d.effect ≠ 0) ∧
      (∀ d ∈ (s 0 0).cue.delivery, d.effect ≠ (reached (s 0 0)).dev.counter) ∧
      ((reached (s 0 1)).ch .ch0).playback ≠ .idle ∧ ((reached (s 0 1)).ch .ch1).playback = .idle := by
  decide +kernel
/-- Each decision: ARMED on the cue, WAITING for it, a leave field, in the mask, in none. -/
theorem witness_CueDecisions :
    let armed := with0 (memState .armed) (fun c => { c with run := { c.run with start := .cue 63 } })
    let leaves := with0 (memState .running) (fun c => { c with
      list := [⟨{ memStep with leave := some 7 }, 0⟩] })
    (armed.ch .ch0).playback = .armed ∧ (armed.ch .ch0).run.start = .cue 63 ∧
      ((streamState .waiting).ch .ch0).playback = .running ∧
      ((streamState .waiting).ch .ch0).run.phase = .waiting ∧
      ((streamState .waiting).ch .ch0).record = some streamStep ∧ streamStep.wait = some 6 ∧
      (leaves.ch .ch0).record = some { memStep with leave := some 7 } ∧
      cueIn ((with0 State.reset (fun c => { c with mask := 2 })).ch .ch0).mask 1 = true ∧
      cueIn (State.reset.ch .ch0).mask 63 = false ∧ (State.reset.ch .ch0).playback = .idle := by
  decide +kernel
theorem witness_StagesMakeOneBoundary :
    Instr.dividerSwitch [] ∈ [Instr.startTimeReached .ch0 [], .primingMet .ch0 [], .markerWidthEnd .ch0 [],
      .cueEffectiveSample [], .dividerSwitch []] ∧
    (∃ t, exec (.dividerSwitch []) (State.reset.setDev { pendingDivider := some 4 }) = .next t) ∧
    tellsMoment (.chStop (msg [1])) = false ∧ beginsAfresh (.chStop (msg [1])) = false ∧
    (opened State.reset).resetHeld = false ∧ (opened State.reset).boundaryOpen = true :=
  ⟨by decide, ⟨_, rfl⟩, rfl, rfl, rfl, rfl⟩

theorem witness_ValueFormingIsExact :
    (65535 : Nat) ≤ 65535 ∧ (-32768 : Int) ≤ -32768 ∧ (32767 : Int) ≤ 32767 := by decide
theorem witness_DeratingAndWindow :
    (-32768 : Int) ≤ 32767 ∧ ProtState.normal ≠ .derated ∧ (-32768 : Int) ≤ -32768 := by decide

/-- Channel 0 RUNNING in a step that plays segment 7, with a boundary waiting in the queue. -/
def midRun : State := { memState .running with pending := [.sampleBoundary [] []] }

theorem witness_step_goes_on : ∃ t, step midRun = .next t := ⟨_, rfl⟩
theorem witness_SegmentTableKept : StoreOk midRun ∧ TableOk midRun := by
  refine ⟨by simp only [StoreOk]; decide, ?_, by simp only [RegionsOk]; decide, by simp only [IdsOk]; decide,
    ?_, ?_, ?_⟩
  · intro a
    show [(⟨0, 1008⟩ : Region), ⟨1024, 261120⟩].countP (fun r => inRun r.base r.len a) +
      [seg7 .sealed 1].countP (fun g => inRun g.base g.alloc a) = _
    simp only [List.countP_cons, List.countP_nil, inRun, seg7, Config.storeWords, Bool.and_eq_true,
      decide_eq_true_eq]
    split_ifs <;> omega
  · intro g hg
    have hg : g ∈ [seg7 .sealed 1] := hg
    rw [List.mem_singleton] at hg
    subst hg
    simp only [SegmentOk]
    decide
  · decide
  · intro id
    constructor
    · intro h; cases h
    · rintro ⟨g, hg, -, hs⟩
      have hg : g ∈ [seg7 .sealed 1] := hg
      rw [List.mem_singleton] at hg
      subst hg
      cases hs
theorem witness_ListsAndReferencesKept : ListsOk midRun ∧ RefsOk midRun := by
  refine ⟨?_, by simp only [IdsOk]; decide, ?_, ?_⟩
  · intro n; cases n <;> simp only [ListOk] <;> decide +kernel
  · intro g hg
    have hg : g ∈ [seg7 .sealed 1] := hg
    rw [List.mem_singleton] at hg
    subst hg
    decide +kernel
  · intro id h
    have h : 0 < [(⟨memStep, 0⟩ : Slot)].countP (namesSeg id) := h
    have : id = 7 := by
      by_contra hne
      have hne : ¬ 7 = id := fun e => hne e.symm
      simp [namesSeg, memStep, hne] at h
    subst this
    decide +kernel
theorem witness_StreamsPendingSetsAndWindowsKept : StreamOk midRun ∧ PendingOk midRun ∧ WindowOk midRun := by
  refine ⟨?_, ?_, ?_⟩ <;> intro n <;> cases n <;> first | decide +kernel | (simp only [InWindow]; decide +kernel)
theorem witness_PositionsKept : PositionOk midRun ∧ PlayedOk midRun := by
  refine ⟨?_, ?_⟩
  rotate_left
  · intro n; cases n <;> refine ⟨by decide, fun h => ?_⟩
    · exact ⟨by decide, fun h => absurd rfl h, fun r hr hs _ => by cases hr; cases hs⟩
    all_goals cases h
  intro n h
  cases n
  · refine ⟨by decide, by decide, ?_⟩
    rintro g ⟨r, hr, id, hid, hg⟩
    cases hr
    cases hid
    cases hg
    decide
  all_goals cases h
theorem witness_QueuesAndAttentionKept : QueuesOk midRun ∧ Cue0Ok midRun ∧ AttnOk midRun := by
  refine ⟨by simp only [QueuesOk]; decide, ?_, by simp only [AttnOk]; decide⟩
  intro _
  exact ⟨by decide, fun i e h _ => by cases h⟩
/-- A frame begun, and the state its first low half leaves. -/
theorem witness_LineKept :
    LineOk (begun 5) ∧ (begun 5).cue.inFlight = some ⟨.one, .startHold⟩ ∧
      ∃ t, step { begun 5 with pending := [.frameSent [.holdEnds]] } = .next t := by
  refine ⟨fun _ => ⟨by decide +kernel, by decide +kernel, by decide +kernel, by decide +kernel, ?_⟩,
    by decide +kernel, _, rfl⟩
  intro f h
  have e : (begun 5).cue.inFlight = some ⟨.one, .startHold⟩ := by decide +kernel
  rw [e] at h
  cases h
  exact ⟨by decide +kernel, by decide +kernel, by decide +kernel, by decide +kernel⟩
theorem witness_ProtectionKept : ShutOk midRun ∧ StrobeOk midRun ∧ LockOk midRun := by
  refine ⟨?_, ?_, fun h => by cases h⟩ <;> intro n <;> cases n <;> decide

end Sys2Proof.Tests
end

section
/-! PROOF. SEG-DEFINE: first fit over the free-region list (R4), and the message's checks and effect (R6). -/

namespace Sys2Proof.Machine

/-! ### First fit (R4) -/

@[simp] theorem allocate_nil (a : Nat) : allocate [] a = none := rfl

theorem allocate_cons_of_fits {r : Region} {a : Nat} (rest : List Region) (h : a ≤ r.len) :
    allocate (r :: rest) a =
      some (r.base, if r.len = a then rest else ⟨r.base + a, r.len - a⟩ :: rest) :=
  if_pos h

/-- A region too short is passed over and stays where it is in the list. -/
theorem allocate_cons_of_short {r : Region} {a : Nat} (rest : List Region) (h : r.len < a) :
    allocate (r :: rest) a = (allocate rest a).map fun p => (p.1, r :: p.2) := by
  rw [allocate, if_neg (by omega)]
  cases allocate rest a <;> rfl

theorem allocate_eq_none_iff (l : List Region) (a : Nat) :
    allocate l a = none ↔ ∀ r ∈ l, r.len < a := by
  induction l with
  | nil => simp
  | cons r rest ih =>
    by_cases h : a ≤ r.len
    · simp [allocate_cons_of_fits rest h, h]
    · have hr : r.len < a := by omega
      simp [allocate_cons_of_short rest hr, ih, hr]

/-- The walk passes over regions that are too short and cuts the first that fits. -/
theorem allocate_append_cons {pre : List Region} {r : Region} {a : Nat} (post : List Region)
    (hpre : ∀ q ∈ pre, q.len < a) (hr : a ≤ r.len) :
    allocate (pre ++ r :: post) a =
      some (r.base, pre ++ (if r.len = a then post else ⟨r.base + a, r.len - a⟩ :: post)) := by
  induction pre with
  | nil => exact allocate_cons_of_fits post hr
  | cons q pre ih =>
    obtain ⟨hq, hpre⟩ := List.forall_mem_cons.mp hpre
    rw [List.cons_append, allocate_cons_of_short _ hq, ih hpre]
    rfl

/-- A list in which the walk finds a region splits at its first region that fits. -/
theorem exists_first_fit_of_allocate_ne_none {l : List Region} {a : Nat} (h : allocate l a ≠ none) :
    ∃ pre r post, l = pre ++ r :: post ∧ (∀ q ∈ pre, q.len < a) ∧ a ≤ r.len := by
  induction l with
  | nil => exact absurd rfl h
  | cons r rest ih =>
    by_cases hr : a ≤ r.len
    · exact ⟨[], r, rest, rfl, by simp, hr⟩
    · have hr : r.len < a := by omega
      rw [allocate_cons_of_short rest hr, ne_eq, Option.map_eq_none_iff] at h
      obtain ⟨pre, q, post, rfl, hpre, hq⟩ := ih h
      exact ⟨r :: pre, q, post, rfl, List.forall_mem_cons.mpr ⟨hr, hpre⟩, hq⟩

theorem allocate_eq_some_iff (l : List Region) (a b : Nat) (l' : List Region) :
    allocate l a = some (b, l') ↔
      ∃ pre r post, l = pre ++ r :: post ∧ (∀ q ∈ pre, q.len < a) ∧ a ≤ r.len ∧ b = r.base ∧
        l' = pre ++ (if r.len = a then post else ⟨r.base + a, r.len - a⟩ :: post) := by
  constructor
  · intro h
    obtain ⟨pre, r, post, rfl, hpre, hr⟩ :=
      exists_first_fit_of_allocate_ne_none (l := l) (a := a) (by simp [h])
    rw [allocate_append_cons post hpre hr, Option.some.injEq, Prod.mk.injEq] at h
    obtain ⟨rfl, rfl⟩ := h
    exact ⟨pre, r, post, rfl, hpre, hr, rfl, rfl⟩
  · rintro ⟨pre, r, post, rfl, hpre, hr, rfl, rfl⟩
    exact allocate_append_cons post hpre hr

/-! ### The allocation (R2) -/

/-- The allocation is the least multiple of 16 that holds the play length. -/
theorem allocation_bounds (l : Nat) :
    allocation l % 16 = 0 ∧ max l 16 ≤ allocation l ∧ allocation l < max l 16 + 16 := by
  simp only [allocation, playLength]
  omega

/-! ### SEG-DEFINE: one equation per outcome (R6) -/

/-- The segment memory after SEG-DEFINE took an allocation at `base` that left the regions `free`: the record
created, and its id at the tail of the clear list (R6, R7). -/
def memDefined (id l base : Nat) (free : List Region) (m : SegMem) : SegMem :=
  { m with
    segs := insertSeg (newSegment id l base) m.segs
    free := free
    clearList := m.clearList ++ [id] }

section Outcomes

variable {id l : Nat} {s : State}

theorem segDefine_badVal (hl : l < 1 ∨ 262144 < l) : segDefine id l s = refuse s .badVal := by
  have hguard : (decide (l < 1) || decide (Config.storeWords < l)) = true := by simpa using hl
  rw [segDefine, if_pos hguard]

/-- L in range: the checks that are left are those of the id and of the free regions. -/
theorem segDefine_of_inRange (hlo : 1 ≤ l) (hhi : l ≤ 262144) :
    segDefine id l s =
      if (findSeg s.mem.segs id).isSome then refuse s .exists
      else match allocate s.mem.free (allocation l) with
        | none => refuse s .noSpace
        | some (base, free) =>
          accept (s.setMem (memDefined id l base free s.mem)) [put 0 base, put 0 (allocation l)] := by
  have hguard : ¬ (decide (l < 1) || decide (Config.storeWords < l)) = true := by
    simp only [Bool.or_eq_true, decide_eq_true_eq, Config.storeWords]
    omega
  rw [segDefine, if_neg hguard]
  rfl

theorem segDefine_exists (hlo : 1 ≤ l) (hhi : l ≤ 262144) (hid : (findSeg s.mem.segs id).isSome) :
    segDefine id l s = refuse s .exists := by
  rw [segDefine_of_inRange hlo hhi, if_pos hid]

theorem segDefine_noSpace (hlo : 1 ≤ l) (hhi : l ≤ 262144) (hid : findSeg s.mem.segs id = none)
    (ha : allocate s.mem.free (allocation l) = none) : segDefine id l s = refuse s .noSpace := by
  simp [segDefine_of_inRange hlo hhi, hid, ha]

theorem segDefine_accepted {base : Nat} {free : List Region} (hlo : 1 ≤ l) (hhi : l ≤ 262144)
    (hid : findSeg s.mem.segs id = none)
    (ha : allocate s.mem.free (allocation l) = some (base, free)) :
    segDefine id l s =
      accept (s.setMem (memDefined id l base free s.mem)) [put 0 base, put 0 (allocation l)] := by
  simp [segDefine_of_inRange hlo hhi, hid, ha]

end Outcomes

/-! ### The row of SEG-DEFINE -/

section Row

variable {m : Msg} {s : State}

/-- A one-word SEG-DEFINE that reaches its block is the operation of its two fields, answered over the link. -/
theorem exec_segDefine_taken (h : Taken .segDefine m s) (hlen : m.payload.length = 1) :
    exec (.segDefine m) s = .next (pendReply Kind.segDefine.code
      (segDefine (bitsOf (msgWord m 0) 31 24) (bitsOf (msgWord m 0) 18 0)
        (receiveWindow (frameWindow Kind.segDefine.code m) s))) := by
  have harm : exec (.segDefine m) s = execSegDefine m s := rfl
  rw [harm, execSegDefine, takeMessage_taken h, bodySegDefine, if_neg (by simp [hlen])]

/-- What the block refuses is answered with its code, and only the link changes. -/
theorem exec_segDefine_refused {code : ReplyCode} (h : Taken .segDefine m s)
    (hlen : m.payload.length = 1) (hc : code ≠ .badFrame ∧ code ≠ .badCheck ∧ code ≠ .reset)
    (hr : segDefine (bitsOf (msgWord m 0) 31 24) (bitsOf (msgWord m 0) 18 0)
        (receiveWindow (frameWindow Kind.segDefine.code m) s) =
      refuse (receiveWindow (frameWindow Kind.segDefine.code m) s) code) :
    exec (.segDefine m) s = .next (answered .segDefine m code [] s s) := by
  rw [exec_segDefine_taken h hlen, hr, pendReply_refuse h hc]

theorem exec_segDefine_noSpace (h : Taken .segDefine m s) (hlen : m.payload.length = 1)
    (hlo : 1 ≤ bitsOf (msgWord m 0) 18 0) (hhi : bitsOf (msgWord m 0) 18 0 ≤ 262144)
    (hid : findSeg s.mem.segs (bitsOf (msgWord m 0) 31 24) = none)
    (ha : allocate s.mem.free (allocation (bitsOf (msgWord m 0) 18 0)) = none) :
    exec (.segDefine m) s = .next (answered .segDefine m .noSpace [] s s) :=
  exec_segDefine_refused h hlen (by decide) (segDefine_noSpace hlo hhi hid ha)

theorem exec_segDefine_accepted {base : Nat} {free : List Region} (h : Taken .segDefine m s)
    (hlen : m.payload.length = 1) (hlo : 1 ≤ bitsOf (msgWord m 0) 18 0)
    (hhi : bitsOf (msgWord m 0) 18 0 ≤ 262144)
    (hid : findSeg s.mem.segs (bitsOf (msgWord m 0) 31 24) = none)
    (ha : allocate s.mem.free (allocation (bitsOf (msgWord m 0) 18 0)) = some (base, free)) :
    exec (.segDefine m) s = .next
      (answered .segDefine m .ok [put 0 base, put 0 (allocation (bitsOf (msgWord m 0) 18 0))] s
        (s.setMem (memDefined (bitsOf (msgWord m 0) 31 24) (bitsOf (msgWord m 0) 18 0) base free
          s.mem))) := by
  have hbody := segDefine_accepted (s := receiveWindow (frameWindow Kind.segDefine.code m) s)
    hlo hhi hid ha
  rw [exec_segDefine_taken h hlen, hbody]
  exact congrArg _ (pendReply_answered h (by decide) rfl ⟨s.link, rfl⟩)

end Row

end Sys2Proof.Machine

namespace Sys2Proof.Proofs

open Sys2Proof.Machine

/-- Settles O9: the walk of the free-region list splits it at the first region that fits. -/
theorem firstFitAllocation : Obligations.FirstFitAllocation := by
  refine ⟨allocate_eq_none_iff, allocate_eq_some_iff, ?_⟩
  intro m s h hlen hlo hhi hid hshort
  exact exec_segDefine_noSpace h hlen hlo hhi hid ((allocate_eq_none_iff _ _).mpr hshort)

/-- Settles O11: one equation of SEG-DEFINE per outcome, carried over the link. -/
theorem segDefineChecksAndEffect : Obligations.SegDefineChecksAndEffect := by
  refine ⟨allocation_bounds, fun m s h hlen => ⟨fun hl => ?badVal, fun hlo hhi =>
    ⟨fun hid => ?defined, fun hid => ⟨fun ha => ?noSpace, fun base free ha => ?accepted⟩⟩⟩⟩
  case badVal => exact exec_segDefine_refused h hlen (by decide) (segDefine_badVal hl)
  case defined => exact exec_segDefine_refused h hlen (by decide) (segDefine_exists hlo hhi hid)
  case noSpace => exact exec_segDefine_noSpace h hlen hlo hhi hid ha
  case accepted => exact exec_segDefine_accepted h hlen hlo hhi hid ha

end Sys2Proof.Proofs
end

section
/-! PROOF. The sample path's stages 1 to 3: interpolation (R67), gain (R68) and offset (R69). -/

namespace Sys2Proof.Machine

/-! ### Stage 1 (R67) -/

/-- The model's integer division is the spec's floor of the exact quotient (R67). -/
theorem interpolate_eq_floor (a b : Int) (f : Nat) :
    interpolate a b f = a + ⌊(((b - a) * f + 32768 : Int) : ℚ) / 65536⌋ :=
  congrArg (a + ·) (Rat.floor_intCast_div_natCast _ 65536).symm

@[simp] theorem interpolate_fraction_zero (a b : Int) : interpolate a b 0 = a := by
  simp [interpolate]

@[simp] theorem interpolate_self (a : Int) (f : Nat) : interpolate a a f = a := by
  simp [interpolate]

/-- On a rise the correction before rounding lies in `0..b - a`, and rounding keeps it there. -/
theorem interpolate_mem_of_le {a b : Int} {f : Nat} (hf : f ≤ 65535) (hab : a ≤ b) :
    a ≤ interpolate a b f ∧ interpolate a b f ≤ b := by
  have hnonneg : 0 ≤ (b - a) * f := mul_nonneg (by omega) (by omega)
  have hle : (b - a) * f ≤ (b - a) * 65536 := mul_le_mul_of_nonneg_left (by omega) (by omega)
  unfold interpolate
  omega

/-- On a fall the correction before rounding lies in `b - a..0`, and rounding keeps it there. -/
theorem interpolate_mem_of_ge {a b : Int} {f : Nat} (hf : f ≤ 65535) (hba : b ≤ a) :
    b ≤ interpolate a b f ∧ interpolate a b f ≤ a := by
  have hnonpos : (b - a) * f ≤ 0 := mul_nonpos_of_nonpos_of_nonneg (by omega) (by omega)
  have hge : (b - a) * 65536 ≤ (b - a) * f := mul_le_mul_of_nonpos_left (by omega) (by omega)
  unfold interpolate
  omega

theorem interpolate_between (a b : Int) {f : Nat} (hf : f ≤ 65535) :
    min a b ≤ interpolate a b f ∧ interpolate a b f ≤ max a b := by
  rcases le_total a b with hab | hba
  · rw [min_eq_left hab, max_eq_right hab]
    exact interpolate_mem_of_le hf hab
  · rw [min_eq_right hba, max_eq_left hba]
    exact interpolate_mem_of_ge hf hba

/-! ### Stage 2 (R68) -/

/-- The model's integer division is the spec's floor of the exact quotient (R68). -/
theorem applyGain_eq_floor (v g : Int) :
    applyGain v g = ⌊((v * g + 8192 : Int) : ℚ) / 16384⌋ :=
  (Rat.floor_intCast_div_natCast _ 16384).symm

@[simp] theorem applyGain_unity (v : Int) : applyGain v 16384 = v := by
  unfold applyGain
  omega

@[simp] theorem applyGain_zero (v : Int) : applyGain v 0 = 0 := by
  simp [applyGain]

@[simp] theorem applyGain_neg_unity (v : Int) : applyGain v (-16384) = -v := by
  unfold applyGain
  omega

/-- A product of two 16-bit numbers is extreme at a corner: for `v` of either sign it lies between
`v` times the two ends of the gain. -/
theorem mul_bounds_int16 {v g : Int} (hv : -32768 ≤ v ∧ v ≤ 32767) (hg : -32768 ≤ g ∧ g ≤ 32767) :
    32767 * -32768 ≤ v * g ∧ v * g ≤ -32768 * -32768 := by
  obtain ⟨hglo, hghi⟩ := hg
  rcases le_total 0 v with hpos | hneg
  · have hlo : v * -32768 ≤ v * g := mul_le_mul_of_nonneg_left hglo hpos
    have hhi : v * g ≤ v * 32767 := mul_le_mul_of_nonneg_left hghi hpos
    omega
  · have hlo : v * 32767 ≤ v * g := mul_le_mul_of_nonpos_left hghi hneg
    have hhi : v * g ≤ v * -32768 := mul_le_mul_of_nonpos_left hglo hneg
    omega

theorem applyGain_bounds {v g : Int} (hv : -32768 ≤ v ∧ v ≤ 32767) (hg : -32768 ≤ g ∧ g ≤ 32767) :
    -65534 ≤ applyGain v g ∧ applyGain v g ≤ 65536 := by
  have hproduct := mul_bounds_int16 hv hg
  unfold applyGain
  omega

/-! ### Stage 3 (R69) -/

@[simp] theorem formSample_u (v g o lmin lmax : Int) (p : ProtState) :
    (formSample v g o p lmin lmax).u = applyGain v g + o := rfl

theorem formSample_u_bounds {v g o : Int} (hv : -32768 ≤ v ∧ v ≤ 32767)
    (hg : -32768 ≤ g ∧ g ≤ 32767) (ho : -32768 ≤ o ∧ o ≤ 32767) (lmin lmax : Int) (p : ProtState) :
    -98302 ≤ (formSample v g o p lmin lmax).u ∧ (formSample v g o p lmin lmax).u ≤ 98303 := by
  have hscaled := applyGain_bounds hv hg
  rw [formSample_u]
  omega

theorem formSample_u_gain_zero (v o lmin lmax : Int) (p : ProtState) :
    (formSample v 0 o p lmin lmax).u = o := by
  rw [formSample_u, applyGain_zero, zero_add]

end Sys2Proof.Machine

namespace Sys2Proof.Proofs

open Sys2Proof.Machine

/-- Settles O52: each stage is the spec's floor, and its bounds follow from those of the exact product. -/
theorem valueFormingIsExact : Obligations.ValueFormingIsExact := by
  refine ⟨fun a b f hf => ?interpolation, fun v g hvlo hvhi hglo hghi => ?scaling, ?extremes⟩
  case interpolation =>
    obtain ⟨hmin, hmax⟩ := interpolate_between a b hf
    exact ⟨interpolate_eq_floor a b f, hmin, hmax, interpolate_fraction_zero a b,
      interpolate_self a f⟩
  case scaling =>
    obtain ⟨hlo, hhi⟩ := applyGain_bounds ⟨hvlo, hvhi⟩ ⟨hglo, hghi⟩
    refine ⟨applyGain_eq_floor v g, hlo, hhi, applyGain_unity v, applyGain_zero v,
      applyGain_neg_unity v, fun o lmin lmax p holo hohi => ?offset⟩
    obtain ⟨hulo, huhi⟩ :=
      formSample_u_bounds ⟨hvlo, hvhi⟩ ⟨hglo, hghi⟩ ⟨holo, hohi⟩ lmin lmax p
    exact ⟨formSample_u v g o lmin lmax p, hulo, huhi, formSample_u_gain_zero v o lmin lmax p⟩
  case extremes => decide

end Sys2Proof.Proofs
end

section
/-! PROOF. STREAM-DATA: the debt paid first, the rest appended, and STREAM_HIGH on the crossing (R87 to R89). -/

namespace Sys2Proof.Machine

/-! ### The buffer (R88) -/

/-- The level rises by the samples the debt did not take. -/
theorem streamTake_level (xs : List Sample) (b : StreamBuffer) :
    (streamTake xs b).fifo.length = b.fifo.length + (xs.length - min xs.length b.debt) := by
  simp [streamTake]

/-- With nothing discarded the first reply word is the level alone. -/
theorem streamWords_zero (b : StreamBuffer) :
    streamWords 0 b = [put 0 b.fifo.length, put 0 b.debt] := by
  simp [streamWords, put]

/-! ### STREAM-DATA: one equation per outcome (R87 to R89) -/

/-- The state with a channel's buffer after it took samples. -/
def streamTaken (n : Ch) (xs : List Sample) (s : State) : State :=
  s.setCh n { s.ch n with stream := streamTake xs (s.ch n).stream }

section Outcomes

variable {n : Ch} {xs : List Sample} {s : State}

theorem streamData_badVal (hn : xs.length < 1 ∨ 510 < xs.length) :
    streamData n xs s = refuse s .badVal := by
  have hguard : (decide (xs.length < 1) || decide (510 < xs.length)) = true := by simpa using hn
  rw [streamData, if_pos hguard]

/-- A length in range: the check left is that of the level the FIFO would reach. -/
theorem streamData_of_inRange (hlo : 1 ≤ xs.length) (hhi : xs.length ≤ 510) :
    streamData n xs s =
      if 8192 < (streamTake xs (s.ch n).stream).fifo.length then
        ⟨s, .full, streamWords 0 (s.ch n).stream⟩
      else accept
        (if (s.ch n).stream.fifo.length < (s.ch n).settings.highMark ∧
            (s.ch n).settings.highMark ≤ (streamTake xs (s.ch n).stream).fifo.length then
          enterEvent .streamHigh (some n) none
            (some (BitVec.ofNat 32 (streamTake xs (s.ch n).stream).fifo.length)) (streamTaken n xs s)
        else streamTaken n xs s)
        (streamWords (min xs.length (s.ch n).stream.debt) (streamTake xs (s.ch n).stream)) := by
  have hguard : ¬ (decide (xs.length < 1) || decide (510 < xs.length)) = true := by
    simp only [Bool.or_eq_true, decide_eq_true_eq]
    omega
  rw [streamData, if_neg hguard, ← streamTake_level]
  simp only [Bool.and_eq_true, decide_eq_true_eq]
  rfl

theorem streamData_full (hlo : 1 ≤ xs.length) (hhi : xs.length ≤ 510)
    (hl : 8192 < (streamTake xs (s.ch n).stream).fifo.length) :
    streamData n xs s = ⟨s, .full, streamWords 0 (s.ch n).stream⟩ := by
  rw [streamData_of_inRange hlo hhi, if_pos hl]

theorem streamData_crossing (hlo : 1 ≤ xs.length) (hhi : xs.length ≤ 510)
    (hl : (streamTake xs (s.ch n).stream).fifo.length ≤ 8192)
    (hbelow : (s.ch n).stream.fifo.length < (s.ch n).settings.highMark)
    (hreach : (s.ch n).settings.highMark ≤ (streamTake xs (s.ch n).stream).fifo.length) :
    streamData n xs s = accept
      (enterEvent .streamHigh (some n) none
        (some (BitVec.ofNat 32 (streamTake xs (s.ch n).stream).fifo.length)) (streamTaken n xs s))
      (streamWords (min xs.length (s.ch n).stream.debt) (streamTake xs (s.ch n).stream)) := by
  rw [streamData_of_inRange hlo hhi, if_neg (by omega), if_pos ⟨hbelow, hreach⟩]

theorem streamData_noCrossing (hlo : 1 ≤ xs.length) (hhi : xs.length ≤ 510)
    (hl : (streamTake xs (s.ch n).stream).fifo.length ≤ 8192)
    (hsame : (s.ch n).settings.highMark ≤ (s.ch n).stream.fifo.length ∨
      (streamTake xs (s.ch n).stream).fifo.length < (s.ch n).settings.highMark) :
    streamData n xs s = accept (streamTaken n xs s)
      (streamWords (min xs.length (s.ch n).stream.debt) (streamTake xs (s.ch n).stream)) := by
  rw [streamData_of_inRange hlo hhi, if_neg (by omega), if_neg (by omega)]

end Outcomes

/-! ### The row of STREAM-DATA -/

section Row

variable {m : Msg} {s : State}

/-- A STREAM-DATA that reaches its block is the operation of its channel and samples, answered over the
link. -/
theorem exec_streamData_taken (h : Taken .streamData m s) :
    exec (.streamData m) s = .next (pendReply Kind.streamData.code
      (streamData (chOf m.channel) (samplesOf m.half m.payload)
        (receiveWindow (frameWindow Kind.streamData.code m) s))) := by
  have harm : exec (.streamData m) s = execStreamData m s := rfl
  rw [harm, execStreamData, takeMessage_taken h, bodyStreamData]

/-- An answer of the block that leaves the link to the window is carried out as `answered` writes it. -/
theorem exec_streamData_answered {u t : State} {code : ReplyCode} {payload : List Word}
    (h : Taken .streamData m s)
    (hc : code ≠ .badFrame ∧ code ≠ .badCheck ∧ code ≠ .reset)
    (hbody : streamData (chOf m.channel) (samplesOf m.half m.payload)
      (receiveWindow (frameWindow Kind.streamData.code m) s) = ⟨u, code, payload⟩)
    (hu : u.link = (receiveWindow (frameWindow Kind.streamData.code m) s).link)
    (ht : ∃ l, t = u.setLink l) :
    exec (.streamData m) s = .next (answered .streamData m code payload s t) := by
  rw [exec_streamData_taken h, hbody, pendReply_answered h hc hu ht]

end Row

end Sys2Proof.Machine

namespace Sys2Proof.Proofs

open Sys2Proof.Machine

/-- Settles O23: one equation of STREAM-DATA per outcome, carried over the link. -/
theorem streamDataTaken : Obligations.StreamDataTaken := by
  intro m s h
  have hlevel := streamTake_level (samplesOf m.half m.payload) (s.ch (chOf m.channel)).stream
  refine ⟨fun hn => ?badVal, fun hlo hhi => ⟨fun hl => ?full, fun hl =>
    ⟨fun ⟨hbelow, hreach⟩ => ?crossing, fun hsame => ?noCrossing⟩⟩⟩
  case badVal =>
    exact exec_streamData_answered h (by decide) (streamData_badVal hn) rfl ⟨s.link, rfl⟩
  case full =>
    rw [← hlevel] at hl
    rw [← streamWords_zero]
    exact exec_streamData_answered h (by decide) (streamData_full hlo hhi hl) rfl ⟨s.link, rfl⟩
  case crossing =>
    rw [← hlevel] at hl hreach ⊢
    exact exec_streamData_answered h (by decide) (streamData_crossing hlo hhi hl hbelow hreach) rfl
      ⟨s.link, rfl⟩
  case noCrossing =>
    rw [← hlevel] at hl hsame ⊢
    exact exec_streamData_answered h (by decide) (streamData_noCrossing hlo hhi hl hsame) rfl
      ⟨s.link, rfl⟩

end Sys2Proof.Proofs
end

section
/-! PROOF. The six decisions a channel takes a cue by (R130). -/

namespace Sys2Proof.Machine

/-! ### The pending set (R134) -/

/-- Only a cue number of the set's width is ever a member. -/
theorem lt_of_cueIn {set : CueSet} {cue : Nat} (h : cueIn set cue = true) : cue < 64 :=
  BitVec.lt_of_getLsbD h

theorem cueIn_cueAdd (set : CueSet) {cue : Nat} (hcue : cue < 64) (k : Nat) :
    cueIn (cueAdd set cue) k = (cueIn set k || decide (k = cue)) := by
  have hbit : (1#64 <<< cue).getLsbD k = decide (k = cue) := by
    rw [← BitVec.twoPow_eq, BitVec.getLsbD_twoPow]
    simp [hcue, eq_comm]
  rw [cueIn, cueAdd, BitVec.getLsbD_or, hbit, cueIn]

/-! ### The conditions of decisions 2 to 4 (R130) -/

/-- Decision 2: the channel is ARMED on the cue. -/
def Channel.StartsOn (c : Channel) (cue : Nat) : Prop :=
  c.playback = .armed ∧ c.run.start = .cue cue

/-- Decision 3: the channel's current step waits for the cue. -/
def Channel.WaitsOn (c : Channel) (cue : Nat) : Prop :=
  c.playback = .running ∧ c.run.phase = .waiting ∧ ∃ r, c.record = some r ∧ r.wait = some cue

/-- Decision 4: the cue is the leave cue of the step being run. -/
def Channel.LeavesOn (c : Channel) (cue : Nat) : Prop :=
  c.playback = .running ∧ ∃ r, c.record = some r ∧ r.leave = some cue

section Decisions

variable {s : State} {n : Ch} {cue : Nat} {r : StepRecord}

/-! ### Decision 1: the stop cue -/

theorem takeCue_zero_of_idle (h : (s.ch n).playback = .idle) :
    takeCue 0 n s = s.setCh n { s.ch n with pendingCues := 0 } := by
  rw [takeCue, if_pos rfl, if_pos h]

theorem takeCue_zero_of_not_idle (h : (s.ch n).playback ≠ .idle) :
    takeCue 0 n s = enterEvent .stopCue (some n) none none (s.setCh n (s.ch n).toIdle) := by
  rw [takeCue, if_pos rfl, if_neg h]

/-! ### Decisions 2 to 4 -/

theorem takeCue_of_startsOn (hcue : cue ≠ 0) (h : (s.ch n).StartsOn cue) :
    takeCue cue n s = enterStep n 0 s := by
  obtain ⟨harmed, hstart⟩ := h
  simp [takeCue, hcue, harmed, hstart]

/-- Decisions 3 to 5 at a RUNNING channel, in their order. -/
theorem takeCue_of_running (hcue : cue ≠ 0) (hrun : (s.ch n).playback = .running)
    (hrec : (s.ch n).record = some r) :
    takeCue cue n s =
      if (s.ch n).run.phase = .waiting ∧ r.wait = some cue then s.setCh n (endWait r (s.ch n))
      else if r.leave = some cue then
        s.setCh n { s.ch n with run := { (s.ch n).run with leave := true } }
      else if cueIn (s.ch n).mask cue then
        s.setCh n { s.ch n with pendingCues := cueAdd (s.ch n).pendingCues cue }
      else s := by
  simp [takeCue, hcue, hrun, hrec]

/-- Decision 5 is the first left where no step is run. -/
theorem takeCue_of_no_record (hcue : cue ≠ 0) (hstarts : ¬ (s.ch n).StartsOn cue)
    (h : (s.ch n).playback = .running → (s.ch n).record = none) :
    takeCue cue n s =
      if cueIn (s.ch n).mask cue then
        s.setCh n { s.ch n with pendingCues := cueAdd (s.ch n).pendingCues cue }
      else s := by
  have hnone : (if (s.ch n).playback = .running then (s.ch n).record else none) = none := by
    simpa using h
  have hguard : ((s.ch n).playback = .armed && (s.ch n).run.start == .cue cue) ≠ true := by
    simpa [Channel.StartsOn] using hstarts
  simp only [takeCue, if_neg hcue, if_neg hguard, hnone]

theorem takeCue_of_waitsOn (hcue : cue ≠ 0) (h : (s.ch n).WaitsOn cue)
    (hrec : (s.ch n).record = some r) :
    takeCue cue n s = s.setCh n (endWait r (s.ch n)) := by
  obtain ⟨hrun, hwaiting, r', hrec', hwait⟩ := h
  obtain rfl : r = r' := Option.some.inj (hrec.symm.trans hrec')
  rw [takeCue_of_running hcue hrun hrec, if_pos ⟨hwaiting, hwait⟩]

/-- With decision 3 past, the leave cue and then the mask decide at a RUNNING channel. -/
theorem takeCue_of_running_not_waitsOn (hcue : cue ≠ 0) (hrun : (s.ch n).playback = .running)
    (hrec : (s.ch n).record = some r) (hwaits : ¬ (s.ch n).WaitsOn cue) :
    takeCue cue n s =
      if r.leave = some cue then
        s.setCh n { s.ch n with run := { (s.ch n).run with leave := true } }
      else if cueIn (s.ch n).mask cue then
        s.setCh n { s.ch n with pendingCues := cueAdd (s.ch n).pendingCues cue }
      else s := by
  rw [takeCue_of_running hcue hrun hrec,
    if_neg fun ⟨hwaiting, hwait⟩ => hwaits ⟨hrun, hwaiting, r, hrec, hwait⟩]

theorem takeCue_of_leavesOn (hcue : cue ≠ 0) (hwaits : ¬ (s.ch n).WaitsOn cue)
    (h : (s.ch n).LeavesOn cue) :
    takeCue cue n s = s.setCh n { s.ch n with run := { (s.ch n).run with leave := true } } := by
  obtain ⟨hrun, r, hrec, hleave⟩ := h
  rw [takeCue_of_running_not_waitsOn hcue hrun hrec hwaits, if_pos hleave]

/-! ### Decisions 5 and 6: the mask alone decides -/

theorem takeCue_of_none_applies (hcue : cue ≠ 0) (hstarts : ¬ (s.ch n).StartsOn cue)
    (hwaits : ¬ (s.ch n).WaitsOn cue) (hleaves : ¬ (s.ch n).LeavesOn cue) :
    takeCue cue n s =
      if cueIn (s.ch n).mask cue then
        s.setCh n { s.ch n with pendingCues := cueAdd (s.ch n).pendingCues cue }
      else s := by
  by_cases hrun : (s.ch n).playback = .running
  · cases hrec : (s.ch n).record with
    | none => exact takeCue_of_no_record hcue hstarts fun _ => hrec
    | some r =>
      rw [takeCue_of_running_not_waitsOn hcue hrun hrec hwaits,
        if_neg fun hleave => hleaves ⟨hrun, r, hrec, hleave⟩]
  · exact takeCue_of_no_record hcue hstarts fun h => absurd h hrun

theorem takeCue_kept (hcue : cue ≠ 0) (hstarts : ¬ (s.ch n).StartsOn cue)
    (hwaits : ¬ (s.ch n).WaitsOn cue) (hleaves : ¬ (s.ch n).LeavesOn cue)
    (hmask : cueIn (s.ch n).mask cue = true) :
    takeCue cue n s = s.setCh n { s.ch n with pendingCues := cueAdd (s.ch n).pendingCues cue } := by
  rw [takeCue_of_none_applies hcue hstarts hwaits hleaves, if_pos hmask]

theorem takeCue_ignored (hcue : cue ≠ 0) (hstarts : ¬ (s.ch n).StartsOn cue)
    (hwaits : ¬ (s.ch n).WaitsOn cue) (hleaves : ¬ (s.ch n).LeavesOn cue)
    (hmask : cueIn (s.ch n).mask cue = false) : takeCue cue n s = s := by
  rw [takeCue_of_none_applies hcue hstarts hwaits hleaves, hmask]
  rfl

end Decisions

end Sys2Proof.Machine

namespace Sys2Proof.Proofs

open Sys2Proof.Machine

/-- Settles O50: one equation of `takeCue` per decision of R130, each under the failure of those before it
that could also apply. -/
theorem cueDecisions : Obligations.CueDecisions := by
  intro s n cue
  refine ⟨takeCue_zero_of_idle, takeCue_zero_of_not_idle, fun hcue =>
    ⟨takeCue_of_startsOn hcue, fun r hends hrec => takeCue_of_waitsOn hcue hends hrec,
      takeCue_of_leavesOn hcue, fun hstarts hends hleaves => ⟨fun hmask => ?kept, ?ignored⟩⟩⟩
  case kept =>
    exact ⟨cueAdd (s.ch n).pendingCues cue, takeCue_kept hcue hstarts hends hleaves hmask,
      cueIn_cueAdd _ (lt_of_cueIn hmask)⟩
  case ignored => exact takeCue_ignored hcue hstarts hends hleaves

end Sys2Proof.Proofs
end

section
/-! PROOF. The pending reply: its summary bits after a window and after both resets (R164), and the bits it is
read in (R160, R163, R172). -/

namespace Sys2Proof.Machine

/-! ### The summary bits of the pending reply (R164) -/

theorem anyCh_iff {α : Type} (q : Quad α) (p : α → Bool) :
    anyCh q p = true ↔ ∃ n, p (q.get n) = true := by
  simp only [anyCh, Bool.or_eq_true]
  constructor
  · rintro (((h | h) | h) | h)
    exacts [⟨.ch0, h⟩, ⟨.ch1, h⟩, ⟨.ch2, h⟩, ⟨.ch3, h⟩]
  · rintro ⟨n, h⟩
    cases n
    exacts [.inl (.inl (.inl h)), .inl (.inl (.inr h)), .inl (.inr h), .inr h]

/-- Every reply is made pending by `pendReply`, which reads the summary bits in the state the answer leaves. -/
theorem summaryShows_pendReply (kind : BitVec 8) (a : Answer) : SummaryShows (pendReply kind a) := by
  have htemp : a.state.temp.state ≠ .cool ↔ a.state.temp.state = .warm ∨ a.state.temp.state = .lock := by
    cases a.state.temp.state <;> decide
  have hprot (st : ProtState) : anyCh a.state.prot (fun p => p.state == st) = true ↔
      ∃ n, (a.state.pr n).state = st := by
    simp only [anyCh_iff, beq_iff_eq, State.pr]
  exact ⟨by simp [summaryOf], Iff.rfl, by simpa [summaryOf] using htemp, by simp [summaryOf],
    hprot .derated, hprot .shut⟩

theorem judgeChecked_ne_zeroWord (header : Word) (rest : List Word) :
    judgeChecked header rest ≠ .zeroWord := by
  by_cases hcheck : rest.getLastD 0 ≠ checkWord (header :: rest.dropLast)
  · rw [judgeChecked, if_pos hcheck]
    exact Judged.noConfusion
  · rw [judgeChecked, if_neg hcheck]
    cases Kind.ofCode (header.extractLsb' 24 8) <;> exact Judged.noConfusion

theorem judgeWindow_ne_zeroWord {w : Window} (hw : windowEdges w ≠ 0) : judgeWindow w ≠ .zeroWord := by
  rw [judgeWindow, if_neg hw]
  cases w.words with
  | nil => split_ifs <;> exact Judged.noConfusion
  | cons header rest =>
    dsimp only
    split_ifs
    case neg => exact judgeChecked_ne_zeroWord header rest
    all_goals exact Judged.noConfusion

/-- Whatever a window with an edge is judged to be, a reply becomes pending. -/
theorem answerWindow_eq_pendReply {j : Judged} (hj : j ≠ .zeroWord) (reading : Int) (s : State) :
    ∃ kind a, answerWindow j reading s = pendReply kind a := by
  cases j with
  | zeroWord => exact absurd rfl hj
  | badFrame | badCheck | unknown _ | frame _ _ => exact ⟨_, _, rfl⟩

/-- With the link ready a window is judged between two boundaries. -/
theorem between_selectionWindow {s : State} (w : Window) (reading : Int) (hr : s.resetHeld = false)
    (ha : s.link.awaitRise = false) :
    between (selectionWindow w reading) s =
      answerWindow (judgeWindow w) reading (receiveWindow w (finishBoundary s)) := by
  obtain ⟨-, -, -, hlink, -⟩ := sameOutside_finishBoundary s
  simp [between, hr, selectionWindow, hlink, ha]

theorem summaryShows_selectionWindow {w : Window} {reading : Int} {s t : State}
    (hr : s.resetHeld = false) (ha : s.link.awaitRise = false) (hw : windowEdges w ≠ 0)
    (h : exec (.selectionWindow w reading) s = .next t) : SummaryShows t := by
  have harm : exec (.selectionWindow w reading) s = .next (between (selectionWindow w reading) s) := rfl
  obtain ⟨kind, a, hpend⟩ := answerWindow_eq_pendReply (judgeWindow_ne_zeroWord hw) reading
    (receiveWindow w (finishBoundary s))
  rw [harm, between_selectionWindow w reading hr ha, hpend] at h
  cases h
  exact summaryShows_pendReply kind a

theorem summaryShows_powerOn {p : Pins} {s t : State} (h : exec (.powerOn p) s = .next t) :
    SummaryShows t := by
  have harm : exec (.powerOn p) s = .next (startUp .powerOn p s) := rfl
  rw [harm] at h
  cases h
  exact summaryShows_pendReply _ _

theorem summaryShows_pinResetEnd {p : Pins} {s t : State} (hr : s.resetHeld = true)
    (h : exec (.pinResetEnd p) s = .next t) : SummaryShows t := by
  have harm : exec (.pinResetEnd p) s = .next (pinResetEnd p s) := rfl
  rw [harm, pinResetEnd, if_pos hr] at h
  cases h
  exact summaryShows_pendReply _ _

/-! ### The fields of a word put together from fields -/

theorem bitsOf_or (v w : Word) (hi lo : Nat) : bitsOf (v ||| w) hi lo = bitsOf v hi lo ||| bitsOf w hi lo := by
  rw [bitsOf, BitVec.extractLsb'_or, BitVec.toNat_or, bitsOf, bitsOf]

theorem testBit_bitsOf (w : Word) (hi lo i : Nat) :
    (bitsOf w hi lo).testBit i = (decide (i < hi + 1 - lo) && w.getLsbD (lo + i)) := by
  rw [bitsOf, BitVec.testBit_toNat, BitVec.getLsbD_extractLsb']

theorem getLsbD_put (l v i : Nat) :
    (put l v).getLsbD i = (decide (i < 32) && (decide (l ≤ i) && v.testBit (i - l))) := by
  have hle : decide (l ≤ i) = !decide (i < l) := by rw [← decide_not, decide_eq_decide, Nat.not_lt]
  rw [put, BitVec.getLsbD_shiftLeft, BitVec.getLsbD_ofNat, hle]
  by_cases hi : i < 32
  · simp [hi, Nat.lt_of_le_of_lt (Nat.sub_le i l) hi]
  · simp [hi]

/-- A field is read back from where it was put. -/
theorem bitsOf_put_same {hi lo v : Nat} (hhi : hi < 32) (hv : v < 2 ^ (hi + 1 - lo)) :
    bitsOf (put lo v) hi lo = v := by
  refine Nat.eq_of_testBit_eq fun i => ?_
  rw [testBit_bitsOf, getLsbD_put, Nat.add_sub_cancel_left]
  by_cases h : i < hi + 1 - lo
  · have hlt : lo + i < 32 := by omega
    simp [h, hlt]
  · rw [Nat.testBit_lt_two_pow (Nat.lt_of_lt_of_le hv (Nat.pow_le_pow_right (by decide) (by omega)))]
    simp

/-- A field that ends below another leaves it 0. -/
theorem bitsOf_put_below {hi lo l v : Nat} (hl : l ≤ lo) (hv : v < 2 ^ (lo - l)) :
    bitsOf (put l v) hi lo = 0 := by
  refine Nat.eq_of_testBit_eq fun i => ?_
  have hlt : v < 2 ^ (lo + i - l) := Nat.lt_of_lt_of_le hv (Nat.pow_le_pow_right (by decide) (by omega))
  rw [testBit_bitsOf, getLsbD_put, Nat.testBit_lt_two_pow hlt]
  simp

/-- A field that begins above another leaves it 0. -/
theorem bitsOf_put_above {hi lo l : Nat} (v : Nat) (hl : hi < l) : bitsOf (put l v) hi lo = 0 := by
  refine Nat.eq_of_testBit_eq fun i => ?_
  rw [testBit_bitsOf, getLsbD_put, Nat.zero_testBit]
  by_cases h : i < hi + 1 - lo
  · have hnot : ¬ l ≤ lo + i := by omega
    simp [hnot]
  · simp [h]

theorem bitsOf_putFlag_same {i : Nat} (hi : i < 32) (b : Bool) : bitsOf (putFlag i b) i i = b.toNat :=
  bitsOf_put_same hi (by rw [Nat.add_sub_cancel_left]; exact b.toNat_lt)

theorem bitsOf_putFlag_outside {hi lo j : Nat} (h : j < lo ∨ hi < j) (b : Bool) :
    bitsOf (putFlag j b) hi lo = 0 := by
  rcases h with hbelow | habove
  · exact bitsOf_put_below (by omega)
      (Nat.lt_of_lt_of_le b.toNat_lt (Nat.le_self_pow (by omega) 2))
  · exact bitsOf_put_above _ habove

/-- A bit is the field of width 1. -/
theorem flagOf_eq_of_bitsOf {w : Word} {i : Nat} {b : Bool} (h : bitsOf w i i = b.toNat) :
    flagOf w i = b := by
  have hbit := testBit_bitsOf w i i 0
  rw [h, Nat.testBit_zero] at hbit
  cases b <;> simpa [flagOf] using hbit.symm

/-! ### The reply header (R172) -/

theorem replyCode_num_lt (c : ReplyCode) : c.num < 2 ^ 8 := by cases c <;> decide

/-- What a field of the header holds: of each part put there, the part of it that lies in the field. -/
theorem bitsOf_replyHeader (r : Reply) (hi lo : Nat) :
    bitsOf (replyHeader r) hi lo =
      bitsOf (put 24 r.kind.toNat) hi lo ||| bitsOf (put 16 r.code.num) hi lo |||
        bitsOf (putFlag 15 r.summary.ev) hi lo ||| bitsOf (putFlag 14 r.summary.evLost) hi lo |||
        bitsOf (putFlag 13 r.summary.tWarn) hi lo ||| bitsOf (putFlag 12 r.summary.tLock) hi lo |||
        bitsOf (putFlag 11 r.summary.der) hi lo ||| bitsOf (putFlag 10 r.summary.shut) hi lo |||
        bitsOf (put 0 r.payload.length) hi lo := by
  simp only [replyHeader, bitsOf_or]

section Header

variable {r : Reply}

theorem replyHeader_kind (hlen : r.payload.length ≤ 256) :
    bitsOf (replyHeader r) 31 24 = r.kind.toNat := by
  have hkind := r.kind.isLt
  have hcode := replyCode_num_lt r.code
  simp (disch := omega) only [bitsOf_replyHeader, bitsOf_put_same, bitsOf_put_below,
    bitsOf_putFlag_outside, Nat.or_zero]

theorem replyHeader_code (hlen : r.payload.length ≤ 256) :
    bitsOf (replyHeader r) 23 16 = r.code.num := by
  have hcode := replyCode_num_lt r.code
  simp (disch := omega) only [bitsOf_replyHeader, bitsOf_put_same, bitsOf_put_below,
    bitsOf_put_above, bitsOf_putFlag_outside, Nat.or_zero, Nat.zero_or]

theorem replyHeader_length (hlen : r.payload.length ≤ 256) :
    bitsOf (replyHeader r) 8 0 = r.payload.length := by
  simp (disch := omega) only [bitsOf_replyHeader, bitsOf_put_same, bitsOf_put_above,
    bitsOf_putFlag_outside, Nat.zero_or]

/-- Between the code and the payload length, a bit holds the one-bit field put there, if any. -/
theorem bitsOf_replyHeader_flag (hlen : r.payload.length ≤ 256) {i : Nat} (hlo : 9 ≤ i) (hhi : i ≤ 15) :
    bitsOf (replyHeader r) i i =
      bitsOf (putFlag 15 r.summary.ev) i i ||| bitsOf (putFlag 14 r.summary.evLost) i i |||
        bitsOf (putFlag 13 r.summary.tWarn) i i ||| bitsOf (putFlag 12 r.summary.tLock) i i |||
        bitsOf (putFlag 11 r.summary.der) i i ||| bitsOf (putFlag 10 r.summary.shut) i i := by
  have hpay : r.payload.length < 2 ^ (i - 0) :=
    Nat.lt_of_lt_of_le (by omega : _ < 2 ^ 9) (Nat.pow_le_pow_right (by decide) (by omega))
  simp (disch := omega) only [bitsOf_replyHeader, bitsOf_put_above, bitsOf_put_below (Nat.zero_le i) hpay,
    Nat.zero_or, Nat.or_zero]

/-- The six summary bits, and the reserved bit. -/
theorem replyHeader_flags (hlen : r.payload.length ≤ 256) :
    flagOf (replyHeader r) 15 = r.summary.ev ∧ flagOf (replyHeader r) 14 = r.summary.evLost ∧
      flagOf (replyHeader r) 13 = r.summary.tWarn ∧ flagOf (replyHeader r) 12 = r.summary.tLock ∧
      flagOf (replyHeader r) 11 = r.summary.der ∧ flagOf (replyHeader r) 10 = r.summary.shut ∧
      flagOf (replyHeader r) 9 = false := by
  refine ⟨?_, ?_, ?_, ?_, ?_, ?_, ?_⟩ <;> refine flagOf_eq_of_bitsOf ?_ <;>
    simp (disch := omega) only [bitsOf_replyHeader_flag hlen, bitsOf_putFlag_same,
      bitsOf_putFlag_outside, Nat.or_zero, Nat.zero_or, Bool.toNat_false]

end Header

/-! ### The check word (R160) and the bits on SDO (R156, R163) -/

theorem wordBits_eq (w : Word) : wordBits w = (List.range 32).map fun i => w.getLsbD (31 - i) := by
  refine List.map_congr_left fun i hi => ?_
  have hi : i < 32 := List.mem_range.mp hi
  simp [BitVec.getMsbD, hi]

/-- The CRC register takes the words' bits one after the other. -/
theorem crc_eq_foldl (ws : List Word) : crc ws = (ws.flatMap wordBits).foldl crcBit 0xFFFF#16 := by
  rw [crc, List.foldl_flatMap]

theorem crcBit_eq (reg : BitVec 16) (b : Bool) :
    crcBit reg b =
      if (reg.getLsbD 15 != b) = true then (reg <<< 1) ^^^ 0x1021#16 else reg <<< 1 := by
  rw [crcBit, BitVec.msb_eq_getLsbD_last]

theorem checkWord_upper (ws : List Word) : (checkWord ws).extractLsb' 16 16 = 0 := by
  refine BitVec.eq_of_getLsbD_eq fun i hi => ?_
  simp [checkWord, hi]

theorem checkWord_lower (ws : List Word) : (checkWord ws).extractLsb' 0 16 = crc ws := by
  refine BitVec.eq_of_getLsbD_eq fun i hi => ?_
  have hword : i < 32 := by omega
  simp [checkWord, hi, hword]

@[simp] theorem sdoBits_length (c : CarriedOut) : c.sdoBits.length = c.bits := by
  simp only [CarriedOut.sdoBits, List.length_append, List.length_take, List.length_replicate]
  omega

/-- Edge by edge: the reply's bit, and 0 once the reply has run out. -/
theorem sdoBits_getElem? (c : CarriedOut) {i : Nat} (hi : i < c.bits) :
    c.sdoBits[i]? = some (((replyWords c.reply).flatMap wordBits).getD i false) := by
  simp only [CarriedOut.sdoBits]
  generalize (replyWords c.reply).flatMap wordBits = all
  by_cases hin : i < all.length
  · rw [List.getElem?_append_left (by simp [hi, hin]), List.getElem?_take_of_lt hi]
    simp [hin]
  · have hpast : all.length ≤ i := by omega
    have hlen : (all.take c.bits).length = all.length := by
      rw [List.length_take]
      omega
    rw [List.getElem?_append_right (by omega), hlen, List.getElem?_replicate_of_lt (by omega)]
    simp [hpast]

end Sys2Proof.Machine

namespace Sys2Proof.Proofs

open Sys2Proof.Machine

/-- Settles O7: every reply is made pending with the summary of the state it leaves; and each part of a reply's
words is read back from where it was put. -/
theorem summaryBitsAfterEffect : Obligations.SummaryBitsAfterEffect := by
  refine ⟨fun w reading s t hr ha hw h => summaryShows_selectionWindow hr ha hw h,
    fun p s t h => summaryShows_powerOn h, fun p s t hr h => summaryShows_pinResetEnd hr h,
    fun r hlen => ?header, fun ws => ⟨checkWord_upper ws, ?crc⟩, fun c => ?sdo⟩
  case header =>
    obtain ⟨hev, hlost, hwarn, hlock, hder, hshut, hzero⟩ := replyHeader_flags hlen
    refine ⟨rfl, replyHeader_kind hlen, ?code, hev, hlost, hwarn, hlock, hder, hshut, hzero,
      replyHeader_length hlen⟩
    rw [replyHeader_code hlen]
    cases r.code <;> rfl
  case crc =>
    simp only [checkWord_lower, crc_eq_foldl, ← wordBits_eq, ← crcBit_eq]
  case sdo =>
    simp only [← wordBits_eq]
    exact ⟨sdoBits_length c, fun i => sdoBits_getElem? c⟩

end Sys2Proof.Proofs
end

section
/-! PROOF. What a row of the table does, told once for all rows: the moments of a boundary, the rows that act
between two boundaries, and the rows at which every block begins afresh. -/

namespace Sys2Proof.Machine

/-! ### The three forms of a row (R41, R190; log entry 5) -/

/-- What a row that is no moment of a boundary does between two boundaries. -/
def actionOf : Instr → State → State
  | .nop m => takeMessage .nop m (bodyOf .nop m 0)
  | .identify m => takeMessage .identify m (bodyOf .identify m 0)
  | .devConfig m => takeMessage .devConfig m (bodyOf .devConfig m 0)
  | .devStatus m => takeMessage .devStatus m (bodyOf .devStatus m 0)
  | .devResetPlayback m => takeMessage .devReset (withScope 1 m) (bodyOf .devReset (withScope 1 m) 0)
  | .devResetAll m reading =>
    takeMessage .devReset (withScope 2 m) (bodyOf .devReset (withScope 2 m) reading)
  | .eventRead m => takeMessage .eventRead m (bodyOf .eventRead m 0)
  | .segDefine m => takeMessage .segDefine m (bodyOf .segDefine m 0)
  | .segWrite m => takeMessage .segWrite m (bodyOf .segWrite m 0)
  | .segSeal m => takeMessage .segSeal m (bodyOf .segSeal m 0)
  | .segDelete m => takeMessage .segDelete m (bodyOf .segDelete m 0)
  | .segQuery m => takeMessage .segQuery m (bodyOf .segQuery m 0)
  | .memQuery m => takeMessage .memQuery m (bodyOf .memQuery m 0)
  | .chConfig m => takeMessage .chConfig m (bodyOf .chConfig m 0)
  | .chMask m => takeMessage .chMask m (bodyOf .chMask m 0)
  | .chStatus m => takeMessage .chStatus m (bodyOf .chStatus m 0)
  | .chRestore m => takeMessage .chRestore m (bodyOf .chRestore m 0)
  | .listClear m => takeMessage .listClear m (bodyOf .listClear m 0)
  | .listAppend m => takeMessage .listAppend m (bodyOf .listAppend m 0)
  | .listReplace m => takeMessage .listReplace m (bodyOf .listReplace m 0)
  | .listRead m => takeMessage .listRead m (bodyOf .listRead m 0)
  | .chStart m => takeMessage .chStart m (bodyOf .chStart m 0)
  | .chStop m => takeMessage .chStop m (bodyOf .chStop m 0)
  | .streamData m => takeMessage .streamData m (bodyOf .streamData m 0)
  | .streamFlush m => takeMessage .streamFlush m (bodyOf .streamFlush m 0)
  | .cueSend m => takeMessage .cueSend m (bodyOf .cueSend m 0)
  | .trigConfig m => takeMessage .trigConfig m (bodyOf .trigConfig m 0)
  | .selectionWindow w reading => selectionWindow w reading
  | .pinResetAssert => pinResetAssert
  | .segClearDone => segClearDone
  | .frameStart moves => frameStart moves
  | .frameSent moves => frameSent moves
  | .arbitrationLost moves => arbitrationLost moves
  | .frameReceived moves onBoundary => frameReceived moves onBoundary
  | .stalledFrame moves => stalledFrame moves
  | .stuckLine l moves => stuckLine l moves
  | .startCondition moves => startCondition moves
  | .stuckLineReleased l moves => stuckLineReleased l moves
  | .trigPinChange t level => trigPinChange t level
  | .trigEdgeQualified t => trigEdgeQualified t
  | .faultAssert n => faultAssert n
  | .faultRelease n => faultRelease n
  | .faultQualified n => faultQualified n
  | .escalationExpiry n => escalationExpiry n
  | .tempReading reading => evaluateTemp reading
  | .attnPulseEnd => attnPulseEnd
  | .powerOn _ | .pinResetEnd _ | .sampleBoundary .. | .startTimeReached .. | .primingMet ..
  | .markerWidthEnd .. | .dividerSwitch .. | .cueEffectiveSample .. | .repeatBoundary _
  | .streamLengthReached _ => id

/-- What a row that tells a boundary, one of its moments, or the resolution of a step end does. -/
def momentOf : Instr → State → State
  | .sampleBoundary turns deferred => sampleBoundary turns deferred
  | .startTimeReached n turns => startTimeReached n turns
  | .primingMet n turns => primingMet n turns
  | .markerWidthEnd n turns => markerWidthEnd n turns
  | .dividerSwitch turns => dividerSwitch turns
  | .cueEffectiveSample turns => cueEffectiveSample turns
  | .repeatBoundary n => repeatBoundary n
  | .streamLengthReached n => streamLengthReached n
  | _ => id

theorem exec_action {c : Instr} (s : State) (hm : tellsMoment c = false) (hb : beginsAfresh c = false) :
    exec c s = .next (between (actionOf c) s) := by
  cases c
  case sampleBoundary | startTimeReached | primingMet | markerWidthEnd | dividerSwitch
    | cueEffectiveSample | repeatBoundary | streamLengthReached => cases hm
  case powerOn | pinResetEnd => cases hb
  all_goals rfl

theorem exec_moment {c : Instr} (s : State) (hm : tellsMoment c = true) :
    exec c s = .next (live (momentOf c) s) := by
  cases c
  case sampleBoundary | startTimeReached | primingMet | markerWidthEnd | dividerSwitch
    | cueEffectiveSample | repeatBoundary | streamLengthReached => rfl
  all_goals cases hm

theorem exec_powerOn (p : Pins) (s : State) : exec (.powerOn p) s = .next (startUp .powerOn p s) := rfl

theorem exec_pinResetEnd (p : Pins) (s : State) :
    exec (.pinResetEnd p) s = .next (pinResetEnd p s) := rfl

/-- A row that is no moment, told between two boundaries, is its action. -/
theorem exec_action_between {c : Instr} {s : State} (h : Between s) (hm : tellsMoment c = false)
    (hb : beginsAfresh c = false) : exec c s = .next (actionOf c s) := by
  obtain ⟨hr, ho⟩ := h
  rw [exec_action s hm hb, between_closed hr ho]

/-- Every command is of one of the three forms. -/
theorem exec_cases (c : Instr) (s : State) :
    exec c s = .next (between (actionOf c) s) ∨
      (tellsMoment c = true ∧ exec c s = .next (live (momentOf c) s)) ∨
      exec c s = .next s ∨
      ∃ cause p, exec c s = .next (startUp cause p s) := by
  by_cases hm : tellsMoment c = true
  · exact .inr (.inl ⟨hm, exec_moment s hm⟩)
  · by_cases hb : beginsAfresh c = true
    · cases c with
      | powerOn p => exact .inr (.inr (.inr ⟨_, p, exec_powerOn p s⟩))
      | pinResetEnd p =>
        rw [exec_pinResetEnd, pinResetEnd]
        split
        · exact .inr (.inr (.inr ⟨_, p, rfl⟩))
        · exact .inr (.inr (.inl rfl))
      | _ => cases hb
    · exact .inl (exec_action s (by simpa using hm) (by simpa using hb))

/-! ### What every step keeps -/

/-- The induction every invariant rests on: what no change of the queue of commands, no moment, no action
between two boundaries and no fresh start breaks, every step keeps. -/
theorem keptByStep_of {P : State → Prop} (hpending : ∀ s l, P s → P { s with pending := l })
    (hmoment : ∀ c s, s.resetHeld = false → P s → P (momentOf c s))
    (haction : ∀ c s, s.resetHeld = false → s.boundaryOpen = false → P s → P (actionOf c s))
    (hfresh : ∀ cause p s, P s → P (startUp cause p s)) : KeptByStep P := by
  have hexec : ∀ c s t, P s → exec c s = .next t → P t := by
    intro c s t hs h
    obtain e | ⟨-, e⟩ | e | ⟨cause, p, e⟩ := exec_cases c s <;> rw [e] at h <;> cases h
    · obtain ⟨-, e⟩ | ⟨hr, ho, e⟩ | ⟨hr, -, e⟩ := between_cases (actionOf c) s <;> rw [e]
      · exact hs
      · exact haction c s hr ho hs
      · obtain ⟨-, -, -, -, hheld, -⟩ := sameOutside_sampleBoundary [] [] s
        exact haction c _ (hheld.trans hr) rfl (hmoment (.sampleBoundary [] []) s hr hs)
    · by_cases hr : s.resetHeld = true
      · rwa [live_held hr]
      · have hr : s.resetHeld = false := by simpa using hr
        rw [live_running hr]
        exact hmoment c s hr hs
    · exact hs
    · exact hfresh cause p s hs
  intro s t hs h
  rw [step] at h
  split at h
  · cases h; exact hs
  · exact hexec _ _ _ (hpending s _ hs) h

/-! ### Which blocks a row can change -/

/-- Blocks of the part. The link, the free values and the queue of commands are not among them. -/
structure Blocks where
  mem    : Bool := false
  chans  : Bool := false
  cue    : Bool := false
  prot   : Bool := false
  temp   : Bool := false
  events : Bool := false
  dev    : Bool := false

/-- From `s` to `t` no block changes but the named ones, the link and the count of free values. -/
structure Touches (b : Blocks) (s t : State) : Prop where
  mem     : b.mem = true ∨ t.mem = s.mem
  chans   : b.chans = true ∨ t.chans = s.chans
  cue     : b.cue = true ∨ t.cue = s.cue
  prot    : b.prot = true ∨ t.prot = s.prot
  temp    : b.temp = true ∨ t.temp = s.temp
  events  : b.events = true ∨ t.events = s.events
  dev     : b.dev = true ∨ t.dev = s.dev
  held    : t.resetHeld = s.resetHeld
  opened  : t.boundaryOpen = s.boundaryOpen
  pending : t.pending = s.pending

theorem touches_refl (b : Blocks) (s : State) : Touches b s s :=
  ⟨.inr rfl, .inr rfl, .inr rfl, .inr rfl, .inr rfl, .inr rfl, .inr rfl, rfl, rfl, rfl⟩

theorem Touches.trans {b : Blocks} {s t u : State} (h : Touches b s t) (k : Touches b t u) :
    Touches b s u := by
  have both {α : Type} {x : Bool} {f : State → α} (h : x = true ∨ f t = f s) (k : x = true ∨ f u = f t) :
      x = true ∨ f u = f s := by
    rcases h with h | h
    · exact .inl h
    · exact k.imp id fun k => k.trans h
  exact ⟨both h.mem k.mem, both h.chans k.chans, both h.cue k.cue, both h.prot k.prot, both h.temp k.temp,
    both h.events k.events, both h.dev k.dev, k.held.trans h.held, k.opened.trans h.opened,
    k.pending.trans h.pending⟩

section BlockUpdates

variable {b : Blocks} (s : State)

theorem touches_setMem (h : b.mem = true) (m : SegMem) : Touches b s (s.setMem m) :=
  { touches_refl b s with mem := .inl h }
theorem touches_setCh (h : b.chans = true) (n : Ch) (c : Channel) : Touches b s (s.setCh n c) :=
  { touches_refl b s with chans := .inl h }
theorem touches_setCue (h : b.cue = true) (c : CueController) : Touches b s (s.setCue c) :=
  { touches_refl b s with cue := .inl h }
theorem touches_setPr (h : b.prot = true) (n : Ch) (p : Protection) : Touches b s (s.setPr n p) :=
  { touches_refl b s with prot := .inl h }
theorem touches_setTemp (h : b.temp = true) (d : DieTemp) : Touches b s (s.setTemp d) :=
  { touches_refl b s with temp := .inl h }
theorem touches_setEvents (h : b.events = true) (e : EventQueue) : Touches b s (s.setEvents e) :=
  { touches_refl b s with events := .inl h }
theorem touches_drawFree : Touches b s s.drawFree := { touches_refl b s with }
theorem touches_enterEvent (h : b.events = true) (k : EventKind) (c : Option Ch) (i : Option Nat)
    (v : Option Word) : Touches b s (enterEvent k c i v s) := touches_setEvents s h _

end BlockUpdates

/-- The blocks a message of a kind can change. -/
def Kind.blocks : Kind → Blocks
  | .nop | .identify | .devStatus | .memQuery | .listRead => {}
  | .devConfig => { cue := true, events := true, dev := true }
  | .devReset =>
    { mem := true, chans := true, cue := true, prot := true, temp := true, events := true, dev := true }
  | .eventRead => { events := true }
  | .segDefine | .segWrite | .segSeal | .segDelete | .segQuery => { mem := true }
  | .chConfig | .chMask | .chStatus | .chStop | .streamFlush => { chans := true }
  | .chRestore => { prot := true }
  | .listClear | .listAppend | .listReplace => { mem := true, chans := true }
  | .chStart | .streamData => { chans := true, events := true }
  | .cueSend | .trigConfig => { cue := true }

theorem touches_evaluateTemp {b : Blocks} (ht : b.temp = true) (hp : b.prot = true) (he : b.events = true)
    (r : Int) (s : State) : Touches b s (evaluateTemp r s) := by
  have hone : ∀ r t, Touches b t (tempTransition r t) := by
    intro r t
    unfold tempTransition
    split <;> split_ifs
    all_goals
      first
      | exact touches_refl b t
      | exact { touches_refl b t with temp := .inl ht, prot := .inl hp, events := .inl he }
  exact (touches_setTemp s ht _).trans ((hone _ _).trans (hone _ _))

theorem touches_eachCh {b : Blocks} {f : Ch → State → State} (h : ∀ n t, Touches b t (f n t)) (l : List Ch)
    (s : State) : Touches b s (eachCh l f s) :=
  eachCh_keeps (P := Touches b s) (fun n t ht => ht.trans (h n t)) l s (touches_refl b s)

/-! ### What a message can do once it reaches its block -/

/-- What the owning block can make of a message of a kind: a refusal or a report leaves the state as it was, and
each accepted change stands with what its checks have found. -/
inductive MessageEffect (s : State) : Kind → State → Prop
  | same (k : Kind) : MessageEffect s k s
  | configured (divider : Nat) (hp : HalfPeriod) (mode : AttnMode) (align : Nat) :
    MessageEffect s .devConfig
      ((((s.setEvents (switchAttn s.dev.attnMode mode s.events)).setDev
        { s.dev with
          pendingDivider := pendingAfter divider s.dev
          zeroPassed := zeroPassedAfter s.freeIndex s.dev
          half := hp, attnMode := mode, align := align }).setCue
        { s.cue with idleEnough := s.cue.idleEnough && hp == s.dev.half }).drawFree)
  | restarted : MessageEffect s .devReset (devResetPlayback s).state
  | defaulted (reading : Int) : MessageEffect s .devReset (devResetAll reading s).state
  | eventsRead (most : Nat) :
    MessageEffect s .eventRead (s.setEvents (readEvents most s.dev.attnMode s.events))
  | defined {id l base : Nat} {free : List Region} (hid : id ≤ 255) (hl : 1 ≤ l ∧ l ≤ Config.storeWords)
      (hnew : findSeg s.mem.segs id = none)
      (halloc : allocate s.mem.free (allocation l) = some (base, free)) :
    MessageEffect s .segDefine (s.setMem (memDefined id l base free s.mem))
  | written (a : Nat) (xs : List Sample) :
    MessageEffect s .segWrite (s.setMem { s.mem with store := Memory.writeAll s.mem.store a xs })
  | sealed {id : Nat} {g : Segment} (hg : findSeg s.mem.segs id = some g) (hopened : g.state = .opened) :
    MessageEffect s .segSeal (s.setMem { s.mem with
      store := padStore g s.mem.store
      segs := updateSeg s.mem.segs id (fun g => { g with state := .sealed }) })
  | deleted {id : Nat} {g : Segment} (hg : findSeg s.mem.segs id = some g) (hrefs : g.refs = 0) :
    MessageEffect s .segDelete (s.setMem { s.mem with
      segs := removeSeg s.mem.segs id
      free := release g.base g.alloc s.mem.free
      clearList := s.mem.clearList.filter (fun i => i != id) })
  | clearMoved {g : Segment} {c : Nat} (hg : findSeg s.mem.segs g.id = some g)
      (hclearing : g.state = .clearing) (hc : c < g.alloc) :
    MessageEffect s .segQuery ((s.setMem { s.mem with
      store := Memory.zero s.mem.store g.base c
      segs := updateSeg s.mem.segs g.id (fun h => { h with cleared := c }) }).drawFree)
  | chConfigured (n : Ch) {m : Msg} {t : Settings} (ht : settingsOf m = some t)
      (hinactive : (s.ch n).active = false) :
    MessageEffect s .chConfig
      (s.setCh n { s.ch n with settings := t, hold := configuredHold (s.ch n) t })
  | masked (n : Ch) (hi lo : Word) :
    MessageEffect s .chMask (s.setCh n { s.ch n with
      mask := cueSetOf hi lo, pendingCues := (s.ch n).pendingCues &&& cueSetOf hi lo })
  | statusRead (n : Ch) :
    MessageEffect s .chStatus (s.setCh n { s.ch n with clip := false, limit := false })
  | restored (n : Ch) : MessageEffect s .chRestore (s.setPr n (restored (s.pr n)))
  | listCleared (n : Ch) (hinactive : (s.ch n).active = false) :
    MessageEffect s .listClear
      ((s.setMem ((s.ch n).list.foldl (fun m t => refOut m t.record) s.mem)).setCh n
        { s.ch n with list := [], pendingCues := 0 })
  | appended (n : Ch) {r : StepRecord} (hr : r.inRange = true) (hroom : (s.ch n).list.length < 64)
      (hready : checkSegment s r = .ready) :
    MessageEffect s .listAppend ((s.setMem (refIn s.mem r)).setCh n
      { s.ch n with list := (s.ch n).list ++ [newSlot r] })
  | replaced (n : Ch) {idx : Nat} {r : StepRecord} {old : Slot} (hr : r.inRange = true)
      (hold : (s.ch n).list[idx]? = some old) (hinactive : (s.ch n).active = false)
      (hready : checkSegment s r = .ready) :
    MessageEffect s .listReplace ((s.setMem (refIn (refOut s.mem old.record) r)).setCh n
      { s.ch n with list := (s.ch n).list.set idx (newSlot r) })
  | started {ns : List Ch} (c : StartCond) (hns : ns.Nodup) (hshut : ∀ n ∈ ns, (s.pr n).state ≠ .shut)
      (hinactive : ∀ n ∈ ns, (s.ch n).active = false) (hlist : ∀ n ∈ ns, (s.ch n).list ≠ []) :
    MessageEffect s .chStart (reportLate c
      (eachCh ns (fun n t => t.setCh n ((t.ch n).arm c (startBoundary c s.dev.counter))) s))
  | stopped {ns : List Ch} (flush : Bool) (hns : ns.Nodup) :
    MessageEffect s .chStop (eachCh ns (fun n t => t.setCh n (stopChannel flush (t.ch n))) s)
  | streamed (n : Ch) {xs : List Sample}
      (hroom : (streamTake xs (s.ch n).stream).fifo.length ≤ Config.streamCapacity) :
    MessageEffect s .streamData (streamTaken n xs s)
  | streamedHigh (n : Ch) {xs : List Sample} (v : Word)
      (hroom : (streamTake xs (s.ch n).stream).fifo.length ≤ Config.streamCapacity) :
    MessageEffect s .streamData (enterEvent .streamHigh (some n) none (some v) (streamTaken n xs s))
  | flushed (n : Ch) : MessageEffect s .streamFlush (s.setCh n (s.ch n).flush)
  | cueSent {cue : Nat} : MessageEffect s .cueSend (pushCue cue .cueSend s)
  | trigSet (t : TrigPin) (g : Trigger) : MessageEffect s .trigConfig (s.setCue (setTrig s.cue t g))

theorem bitsOf_lt (w : Word) (hi lo : Nat) : bitsOf w hi lo < 2 ^ (hi + 1 - lo) := BitVec.isLt _

theorem maskChannels_nodup (w : Word) : (maskChannels w).Nodup := List.Nodup.filter _ (by decide)

theorem checkSegment_ready {s : State} {r : StepRecord} (h1 : checkSegment s r ≠ .notReady)
    (h2 : checkSegment s r ≠ .notFound) : checkSegment s r = .ready := by
  cases h : checkSegment s r with
  | ready => rfl
  | notReady => exact absurd h h1
  | notFound => exact absurd h h2

section PerKind

variable (m : Msg) (s : State)

theorem messageEffect_devConfig : MessageEffect s .devConfig (bodyDevConfig m s).state := by
  simp only [bodyDevConfig, devConfig]
  split_ifs
  · exact .same _
  · exact .same _
  · exact .same _
  · exact .configured _ _ _ _

theorem messageEffect_devReset (r : Int) : MessageEffect s .devReset (bodyDevReset m r s).state := by
  simp only [bodyDevReset]
  split_ifs
  · exact .same _
  · exact .restarted
  · exact .defaulted r
  · exact .same _

theorem messageEffect_eventRead : MessageEffect s .eventRead (bodyEventRead m s).state := by
  simp only [bodyEventRead, eventRead]
  split_ifs
  · exact .same _
  · exact .same _
  · exact .eventsRead _

theorem messageEffect_segDefine : MessageEffect s .segDefine (bodySegDefine m s).state := by
  simp only [bodySegDefine]
  split_ifs
  · exact .same _
  · generalize hid : bitsOf (msgWord m 0) 31 24 = id
    generalize bitsOf (msgWord m 0) 18 0 = l
    have hlt := bitsOf_lt (msgWord m 0) 31 24
    by_cases hl : l < 1 ∨ 262144 < l
    · rw [segDefine_badVal hl]
      exact .same _
    · rw [segDefine_of_inRange (by omega) (by omega)]
      split_ifs with hnew
      · exact .same _
      · cases ha : allocate s.mem.free (allocation l) with
        | none => exact .same _
        | some p =>
          exact .defined (by omega) ⟨by omega, by simp only [Config.storeWords]; omega⟩
            (by simpa using hnew) ha

theorem messageEffect_segWrite : MessageEffect s .segWrite (bodySegWrite m s).state := by
  simp only [bodySegWrite, segWrite]
  split_ifs
  · exact .same _
  · exact .same _
  · split
    · exact .same _
    · split_ifs
      · exact .same _
      · split
        · exact .same _
        · exact .same _
        · exact .written _ _

theorem messageEffect_segSeal : MessageEffect s .segSeal (bodySegSeal m s).state := by
  simp only [bodySegSeal, segSeal]
  split
  · exact .same _
  · split
    · exact .same _
    · rename_i g hg
      split
      · exact .same _
      · exact .same _
      · rename_i hopened
        exact .sealed hg hopened

theorem messageEffect_segDelete : MessageEffect s .segDelete (bodySegDelete m s).state := by
  simp only [bodySegDelete, segDelete]
  split
  · exact .same _
  · split
    · exact .same _
    · rename_i g hg
      split_ifs with hrefs
      · exact .same _
      · exact .deleted hg (by omega)

theorem clearedNow_lt {g : Segment} (s : State) (h : g.cleared < g.alloc) : clearedNow g s < g.alloc := by
  have hmod := Nat.mod_lt (Config.clearProgress s.freeIndex) (show 0 < g.alloc - g.cleared by omega)
  rw [clearedNow]
  omega

theorem messageEffect_segQuery : MessageEffect s .segQuery (bodySegQuery m s).state := by
  simp only [bodySegQuery, segQuery]
  split_ifs
  · exact .same _
  · split
    · exact .same _
    · rename_i g hg
      have hmove : MessageEffect s .segQuery (clearCaughtUp g s) := by
        rw [clearCaughtUp]
        split_ifs with h
        · simp only [Bool.and_eq_true, decide_eq_true_eq] at h
          obtain ⟨⟨hclearing, -⟩, hlt⟩ := h
          exact .clearMoved (by rwa [(findSeg_some hg).2]) hclearing (clearedNow_lt s hlt)
        · exact .same _
      split
      · exact .same _
      · exact hmove

theorem messageEffect_memQuery : MessageEffect s .memQuery (bodyMemQuery m s).state := by
  simp only [bodyMemQuery, memQuery]
  split_ifs <;> exact .same _

theorem messageEffect_chConfig : MessageEffect s .chConfig (bodyChConfig m s).state := by
  simp only [bodyChConfig, chConfig]
  split
  · exact .same _
  · split
    · exact .same _
    · rename_i t ht
      split_ifs with hactive
      · exact .same _
      · exact .chConfigured _ ht (by simpa using hactive)

theorem messageEffect_chMask : MessageEffect s .chMask (bodyChMask m s).state := by
  simp only [bodyChMask, chMask]
  split_ifs
  · exact .same _
  · exact .masked _ _ _

theorem messageEffect_chStatus : MessageEffect s .chStatus (bodyChStatus m s).state := by
  simp only [bodyChStatus, chStatus]
  split_ifs
  · exact .same _
  · exact .statusRead _

theorem messageEffect_chRestore : MessageEffect s .chRestore (bodyChRestore m s).state := by
  simp only [bodyChRestore, chRestore]
  split_ifs
  · exact .same _
  · exact .same _
  · exact .restored _

theorem messageEffect_listClear : MessageEffect s .listClear (bodyListClear m s).state := by
  simp only [bodyListClear, listClear]
  split_ifs with hlen hactive
  · exact .same _
  · exact .same _
  · exact .listCleared _ (by simpa using hactive)

theorem messageEffect_listAppend : MessageEffect s .listAppend (bodyListAppend m s).state := by
  simp only [bodyListAppend, listAppend]
  split_ifs with hlen hr hready hroom hfound
  · exact .same _
  · exact .same _
  · exact .same _
  · exact .same _
  · exact .same _
  · exact .appended _ (by simpa using hr) (by simpa using hroom) (checkSegment_ready hready hfound)

theorem messageEffect_listReplace : MessageEffect s .listReplace (bodyListReplace m s).state := by
  simp only [bodyListReplace, listReplace]
  split
  · exact .same _
  · split
    · exact .same _
    · rename_i old hold
      split_ifs with hr hactive hready hfound
      · exact .same _
      · exact .same _
      · exact .same _
      · exact .same _
      · exact .replaced _ (by simpa using hr) hold (by simpa using hactive)
          (checkSegment_ready hready hfound)

theorem messageEffect_listRead : MessageEffect s .listRead (bodyListRead m s).state := by
  simp only [bodyListRead, listRead]
  split
  · exact .same _
  · split <;> exact .same _

theorem messageEffect_chStart : MessageEffect s .chStart (bodyChStart m s).state := by
  simp only [bodyChStart, chStart]
  split
  · exact .same _
  · split
    · exact .same _
    · split_ifs with hshut hactive hlist
      · exact .same _
      · exact .same _
      · exact .same _
      · exact .started _ (maskChannels_nodup _) (by simpa using hshut) (by simpa using hactive)
          (by simpa using hlist)

theorem messageEffect_chStop : MessageEffect s .chStop (bodyChStop m s).state := by
  simp only [bodyChStop, chStop]
  split_ifs
  · exact .same _
  · exact .same _
  · exact .stopped _ (maskChannels_nodup _)

theorem messageEffect_streamData : MessageEffect s .streamData (bodyStreamData m s).state := by
  rw [bodyStreamData]
  generalize samplesOf m.half m.payload = xs
  by_cases hn : xs.length < 1 ∨ 510 < xs.length
  · rw [streamData_badVal hn]
    exact .same _
  · rw [streamData_of_inRange (by omega) (by omega)]
    split_ifs with hfull
    · exact .same _
    · exact .streamedHigh _ _ (by simpa using hfull)
    · exact .streamed _ (by simpa using hfull)

theorem messageEffect_streamFlush : MessageEffect s .streamFlush (bodyStreamFlush m s).state := by
  simp only [bodyStreamFlush, streamFlush]
  split_ifs
  · exact .same _
  · exact .flushed _

theorem messageEffect_cueSend : MessageEffect s .cueSend (bodyCueSend m s).state := by
  simp only [bodyCueSend, cueSend]
  split_ifs
  · exact .same _
  · exact .same _
  · split
    · exact .same _
    · exact .same _
    · exact .cueSent

theorem messageEffect_trigConfig : MessageEffect s .trigConfig (bodyTrigConfig m s).state := by
  simp only [bodyTrigConfig, trigConfig]
  split
  · exact .same _
  · split
    · exact .same _
    · split
      · exact .same _
      · exact .trigSet _ _

theorem messageEffect_bodyOf (k : Kind) (r : Int) : MessageEffect s k (bodyOf k m r s).state := by
  have hreport : ∀ k (c : Prop) [Decidable c] (code : ReplyCode) (p : List Word),
      MessageEffect s k (if c then refuse s code else accept s p).state := by
    intro k c _ code p
    split_ifs <;> exact .same _
  cases k
  case nop => exact .same _
  case identify => exact hreport _ _ _ _
  case devStatus => exact hreport _ _ _ _
  case devConfig => exact messageEffect_devConfig m s
  case devReset => exact messageEffect_devReset m s r
  case eventRead => exact messageEffect_eventRead m s
  case segDefine => exact messageEffect_segDefine m s
  case segWrite => exact messageEffect_segWrite m s
  case segSeal => exact messageEffect_segSeal m s
  case segDelete => exact messageEffect_segDelete m s
  case segQuery => exact messageEffect_segQuery m s
  case memQuery => exact messageEffect_memQuery m s
  case chConfig => exact messageEffect_chConfig m s
  case chMask => exact messageEffect_chMask m s
  case chStatus => exact messageEffect_chStatus m s
  case chRestore => exact messageEffect_chRestore m s
  case listClear => exact messageEffect_listClear m s
  case listAppend => exact messageEffect_listAppend m s
  case listReplace => exact messageEffect_listReplace m s
  case listRead => exact messageEffect_listRead m s
  case chStart => exact messageEffect_chStart m s
  case chStop => exact messageEffect_chStop m s
  case streamData => exact messageEffect_streamData m s
  case streamFlush => exact messageEffect_streamFlush m s
  case cueSend => exact messageEffect_cueSend m s
  case trigConfig => exact messageEffect_trigConfig m s

end PerKind

/-- The part as a DEV-RESET ALL sets it before it evaluates the temperature (R189). -/
def freshForAll (reading : Int) (s : State) : State :=
  { defaults (heldPins reading s) s with
    chans := keepPins s.chans (defaults (heldPins reading s) s).chans
    cue := driveWires (abandonFrame s.cue).ck.own (abandonFrame s.cue).dt.own
      (defaults (heldPins reading s) s).cue
    link := { (defaults (heldPins reading s) s).link with carriedOut := s.link.carriedOut }
    dev := { (defaults (heldPins reading s) s).dev with refEdge := edgeAtTake s.freeIndex s.dev }
    freeIndex := s.freeIndex + 1 }

theorem devResetAll_state (reading : Int) (s : State) :
    (devResetAll reading s).state = evaluateTemp reading (freshForAll reading s) := rfl

theorem touches_reportLate {b : Blocks} (he : b.events = true) (c : StartCond) (s : State) :
    Touches b s (reportLate c s) := by
  unfold reportLate
  split
  · split
    · exact touches_enterEvent s he _ _ _ _
    · exact touches_refl b s
  · exact touches_refl b s

/-- A message changes the blocks of its kind alone. -/
theorem MessageEffect.touches {s t : State} {k : Kind} (h : MessageEffect s k t)
    (hr : s.resetHeld = false) (ho : s.boundaryOpen = false) : Touches k.blocks s t := by
  cases h with
  | same => exact touches_refl _ s
  | configured => exact { touches_refl _ s with cue := .inl rfl, events := .inl rfl, dev := .inl rfl }
  | restarted =>
    exact { touches_refl _ s with mem := .inl rfl, chans := .inl rfl, cue := .inl rfl }
  | defaulted reading =>
    have hstart : ∀ t : State, t.resetHeld = false → t.boundaryOpen = false → t.pending = s.pending →
        Touches Kind.devReset.blocks s t := fun t hr' ho' hp =>
      ⟨.inl rfl, .inl rfl, .inl rfl, .inl rfl, .inl rfl, .inl rfl, .inl rfl, hr'.trans hr.symm,
        ho'.trans ho.symm, hp⟩
    rw [devResetAll_state]
    exact (hstart (freshForAll reading s) rfl rfl rfl).trans (touches_evaluateTemp rfl rfl rfl reading _)
  | eventsRead => exact touches_setEvents s rfl _
  | defined => exact touches_setMem s rfl _
  | written => exact touches_setMem s rfl _
  | sealed => exact touches_setMem s rfl _
  | deleted => exact touches_setMem s rfl _
  | clearMoved => exact (touches_setMem s rfl _).trans (touches_drawFree _)
  | chConfigured => exact touches_setCh s rfl _ _
  | masked => exact touches_setCh s rfl _ _
  | statusRead => exact touches_setCh s rfl _ _
  | restored => exact touches_setPr s rfl _ _
  | listCleared => exact (touches_setMem s rfl _).trans (touches_setCh _ rfl _ _)
  | appended => exact (touches_setMem s rfl _).trans (touches_setCh _ rfl _ _)
  | replaced => exact (touches_setMem s rfl _).trans (touches_setCh _ rfl _ _)
  | started c =>
    exact (touches_eachCh (fun n t => touches_setCh t rfl n _) _ s).trans (touches_reportLate rfl c _)
  | stopped => exact touches_eachCh (fun n t => touches_setCh t rfl n _) _ s
  | streamed => exact touches_setCh s rfl _ _
  | streamedHigh => exact (touches_setCh s rfl _ _).trans (touches_enterEvent _ rfl _ _ _ _)
  | flushed => exact touches_setCh s rfl _ _
  | cueSent =>
    obtain ⟨-, e⟩ | ⟨-, e⟩ := pushCue_cases _ .cueSend s <;> rw [e]
    · exact touches_setCue s rfl _
    · exact touches_refl _ s
  | trigSet => exact touches_setCue s rfl _

/-- An invariant kept by the link's own changes and by what the blocks can make of a message is kept by every
message and every window. -/
theorem takeMessage_keeps_of_effect {P : State → Prop} (hlink : ∀ s l, P s → P (s.setLink l)) {k : Kind}
    (heffect : ∀ s t, s.resetHeld = false → s.boundaryOpen = false →
      (k.lockable = true → s.temp.state ≠ .lock) → MessageEffect s k t → P s → P t)
    (m m' : Msg) (r : Int) {s : State} (hr : s.resetHeld = false) (ho : s.boundaryOpen = false) (hs : P s) :
    P (takeMessage k m (bodyOf k m' r) s) := by
  suffices h : Between (takeMessage k m (bodyOf k m' r) s) ∧ P (takeMessage k m (bodyOf k m' r) s) from h.2
  refine takeMessage_keeps (P := fun t => Between t ∧ P t) (fun t l h => ⟨h.1, hlink t l h.2⟩) ?_
    ⟨⟨hr, ho⟩, hs⟩
  rintro t hlock ⟨⟨hr, ho⟩, ht⟩
  have he := messageEffect_bodyOf m' t k r
  have htouch := he.touches hr ho
  exact ⟨⟨htouch.held.trans hr, htouch.opened.trans ho⟩, heffect t _ hr ho hlock he ht⟩

theorem selectionWindow_keeps {P : State → Prop} (hlink : ∀ s l, P s → P (s.setLink l))
    (heffect : ∀ k s t, s.resetHeld = false → s.boundaryOpen = false →
      (k.lockable = true → s.temp.state ≠ .lock) → MessageEffect s k t → P s → P t)
    (w : Window) (r : Int) {s : State} (hr : s.resetHeld = false) (ho : s.boundaryOpen = false) (hs : P s) :
    P (selectionWindow w r s) := by
  have hw : P (receiveWindow w s) := hlink s _ hs
  rw [selectionWindow]
  split_ifs
  · exact hlink s _ hs
  · cases judgeWindow w with
    | zeroWord => exact hw
    | badFrame | badCheck | unknown => exact hlink _ _ hw
    | frame k m =>
      obtain ⟨-, e⟩ | ⟨-, -, -, e⟩ | ⟨-, hlock, e⟩ :=
        answerMessage_cases k m (bodyOf k m r) (receiveWindow w s) <;> rw [answerWindow, e]
      · exact hlink _ _ hw
      · exact hlink _ _ hw
      · exact hlink _ _ (heffect k (receiveWindow w s) _ hr ho hlock (messageEffect_bodyOf m _ k r) hw)

/-! ### What the rows that carry no message can change -/

/-- The blocks that a row which carries no message and is no moment of a boundary can change. -/
def rowBlocks : Instr → Blocks
  | .segClearDone => { mem := true, events := true }
  | .frameStart _ | .frameSent _ | .arbitrationLost _ | .frameReceived .. | .stalledFrame _ | .stuckLine ..
  | .startCondition _ | .stuckLineReleased .. | .trigPinChange .. | .trigEdgeQualified _ =>
    { cue := true, events := true }
  | .faultAssert _ | .faultRelease _ => { prot := true }
  | .faultQualified _ | .escalationExpiry _ => { prot := true, chans := true, events := true }
  | .tempReading _ => { temp := true, prot := true, events := true }
  | .attnPulseEnd => { events := true }
  | _ => {}

/-- The rows that carry a message, and the fall of RESET#. -/
def carriesMessage : Instr → Bool
  | .segClearDone | .frameStart _ | .frameSent _ | .arbitrationLost _ | .frameReceived .. | .stalledFrame _
  | .stuckLine .. | .startCondition _ | .stuckLineReleased .. | .trigPinChange .. | .trigEdgeQualified _
  | .faultAssert _ | .faultRelease _ | .faultQualified _ | .escalationExpiry _ | .tempReading _
  | .attnPulseEnd => false
  | _ => true

section CueRows

variable {b : Blocks} (hc : b.cue = true) (he : b.events = true) (s : State)
include hc

theorem touches_moveLine (ms : List LineMove) : Touches b s (moveLine ms s) := touches_setCue s hc _

include he

theorem touches_loseAttempt : Touches b s (loseAttempt s) := by
  obtain ⟨-, e⟩ | ⟨h, rest, -, -, e⟩ | ⟨h, rest, -, -, e⟩ := loseAttempt_cases s <;> rw [e]
  · exact touches_setCue s hc _
  · exact (touches_setCue s hc _).trans (touches_enterEvent _ he _ _ _ _)
  · exact touches_setCue s hc _

theorem touches_pushOrDrop (cue : Nat) (src : CueSource) : Touches b s (pushOrDrop cue src s) := by
  obtain ⟨-, e⟩ | ⟨-, e⟩ := pushOrDrop_cases cue src s <;> rw [e]
  · exact touches_enterEvent s he _ _ _ _
  · obtain ⟨-, e⟩ | ⟨-, e⟩ := pushCue_cases cue src s <;> rw [e]
    · exact touches_setCue s hc _
    · exact touches_refl b s

theorem touches_cueError (c : CueController) (why : CueErrorReason) :
    Touches b s (cueError why (s.setCue c)) :=
  (touches_setCue s hc c).trans (touches_enterEvent _ he _ _ _ _)

theorem touches_deliver (cue : Nat) (e : Counter) : Touches b s (deliver cue e s) := by
  rw [deliver]
  split_ifs
  · exact touches_enterEvent s he _ _ _ _
  · exact touches_setCue s hc _

end CueRows

theorem touches_shutDown {b : Blocks} (hc : b.chans = true) (hp : b.prot = true) (he : b.events = true)
    (n : Ch) (reason : Word) (s : State) : Touches b s (shutDown n reason s) :=
  ((touches_setPr s hp n _).trans (touches_setCh _ hc n _)).trans (touches_enterEvent _ he _ _ _ _)

theorem touches_faultQualified {b : Blocks} (hc : b.chans = true) (hp : b.prot = true)
    (he : b.events = true) (n : Ch) (s : State) : Touches b s (faultQualified n s) := by
  have hfirst : ∀ t, Touches b t (firstFailure n t) := fun t =>
    (touches_setPr t hp n _).trans (touches_enterEvent _ he _ _ _ _)
  simp only [faultQualified]
  split
  · refine (touches_setPr s hp n { s.pr n with qual := .qualified }).trans ?_
    simp only [takeQualified]
    split
    · exact hfirst _
    · exact hfirst _
    · exact touches_shutDown hc hp he n _ _
    · exact touches_refl b _
  · exact touches_refl b s

theorem touches_actionOf {c : Instr} (hc : carriesMessage c = false) (s : State) :
    Touches (rowBlocks c) s (actionOf c s) := by
  cases c
  case segClearDone =>
    simp only [actionOf, segClearDone]
    split
    · exact touches_refl _ s
    · split
      · exact touches_refl _ s
      · split
        · exact (touches_setMem s rfl _).trans (touches_enterEvent _ rfl _ _ _ _)
        · exact touches_refl _ s
  case frameStart ms =>
    obtain e | ⟨-, -, -, e⟩ := frameStart_cases s ms <;> rw [actionOf, e]
    · exact touches_moveLine rfl s ms
    · exact touches_setCue s rfl _
  case frameSent ms =>
    obtain e | ⟨-, e⟩ := frameSent_cases s ms <;> rw [actionOf, e]
    · exact touches_moveLine rfl s ms
    · exact touches_setCue s rfl _
  case arbitrationLost ms =>
    obtain e | ⟨-, e⟩ := arbitrationLost_cases s ms <;> rw [actionOf, e]
    · exact touches_moveLine rfl s ms
    · exact (touches_moveLine rfl s ms).trans (touches_loseAttempt rfl rfl _)
  case frameReceived ms onB =>
    obtain e | ⟨bits, -, ⟨cue, -, e⟩ | ⟨why, -, e⟩⟩ := frameReceived_cases s ms onB <;> rw [actionOf, e]
    · exact touches_moveLine rfl s ms
    · exact (touches_setCue s rfl _).trans (touches_deliver rfl rfl _ cue _)
    · exact touches_cueError rfl rfl s _ why
  case stalledFrame ms =>
    obtain e | ⟨-, e⟩ := stalledFrame_cases s ms <;> rw [actionOf, e]
    · exact touches_moveLine rfl s ms
    · exact touches_cueError rfl rfl s _ _
  case stuckLine l ms =>
    obtain e | ⟨-, ⟨-, e⟩ | ⟨-, e⟩⟩ := stuckLine_cases s l ms <;> rw [actionOf, e]
    · exact touches_moveLine rfl s ms
    · exact touches_cueError rfl rfl s _ _
    · exact ((touches_cueError rfl rfl s _ _).trans (touches_setCue _ rfl _)).trans
        (touches_loseAttempt rfl rfl _)
  case startCondition ms =>
    obtain e | ⟨-, e⟩ := startCondition_cases s ms <;> rw [actionOf, e]
    · exact touches_moveLine rfl s _
    · exact touches_cueError rfl rfl s _ _
  case stuckLineReleased l ms => exact touches_moveLine rfl s _
  case trigPinChange t level => exact touches_setCue s rfl _
  case trigEdgeQualified t =>
    simp only [actionOf, trigEdgeQualified]
    split
    · exact touches_refl _ s
    · split
      · exact (touches_setCue s rfl _).trans (touches_pushOrDrop rfl rfl _ _ _)
      · exact touches_setCue s rfl _
  case faultAssert n =>
    simp only [actionOf, faultAssert]
    split
    · exact touches_refl _ s
    · exact touches_setPr s rfl _ _
  case faultRelease n => exact touches_setPr s rfl _ _
  case faultQualified n => exact touches_faultQualified rfl rfl rfl n s
  case escalationExpiry n =>
    simp only [actionOf, escalationExpiry]
    split
    · exact touches_shutDown rfl rfl rfl n _ s
    · exact touches_refl _ s
  case tempReading r => exact touches_evaluateTemp rfl rfl rfl r s
  case attnPulseEnd =>
    simp only [actionOf, attnPulseEnd]
    split
    · exact touches_setEvents s rfl _
    · exact touches_refl _ s
  all_goals cases hc

/-- An invariant is kept by every action between two boundaries if it is kept by the link's own changes, by
what the blocks make of messages, by the fall of RESET#, and by the rows that carry no message. -/
theorem actionOf_keeps {P : State → Prop} (hlink : ∀ s l, P s → P (s.setLink l))
    (heffect : ∀ k s t, s.resetHeld = false → s.boundaryOpen = false →
      (k.lockable = true → s.temp.state ≠ .lock) → MessageEffect s k t → P s → P t)
    (hassert : ∀ s, s.resetHeld = false → s.boundaryOpen = false → P s → P (pinResetAssert s))
    (hrow : ∀ c s, carriesMessage c = false → s.resetHeld = false → s.boundaryOpen = false → P s →
      P (actionOf c s))
    (c : Instr) (s : State) (hr : s.resetHeld = false) (ho : s.boundaryOpen = false) (hs : P s) :
    P (actionOf c s) := by
  by_cases hc : carriesMessage c = false
  · exact hrow c s hc hr ho hs
  · have hmessage : ∀ k m m' r, P (takeMessage k m (bodyOf k m' r) s) := fun k m m' r =>
      takeMessage_keeps_of_effect hlink (heffect k) m m' r hr ho hs
    cases c
    case selectionWindow w r => exact selectionWindow_keeps hlink heffect w r hr ho hs
    case pinResetAssert => exact hassert s hr ho hs
    case powerOn | pinResetEnd | sampleBoundary | startTimeReached | primingMet | markerWidthEnd
      | dividerSwitch | cueEffectiveSample | repeatBoundary | streamLengthReached => exact hs
    all_goals first | exact hmessage _ _ _ _ | exact absurd rfl hc

/-! ### O1, O2 and the rest of a boundary that stands open -/

theorem momentOf_sameOutside (c : Instr) (s : State) : SameOutside s (momentOf c s) := by
  have hopen := fun turns => sameOutside_openBoundary turns s
  cases c
  case sampleBoundary turns deferred => exact sameOutside_sampleBoundary turns deferred s
  case startTimeReached n turns =>
    simp only [momentOf, startTimeReached]
    split
    · exact hopen turns
    · exact sameOutside_refl s
  case primingMet n turns =>
    simp only [momentOf, primingMet]
    split
    · exact sameOutside_trans (hopen turns)
        (sameOutside_trans (sameOutside_cueStage turns _) (sameOutside_primingStage n _))
    · exact sameOutside_refl s
  case markerWidthEnd n turns =>
    simp only [momentOf, markerWidthEnd]
    split
    · exact sameOutside_trans (hopen turns) (sameOutside_setCh _ n _)
    · exact sameOutside_refl s
  case dividerSwitch turns =>
    simp only [momentOf, dividerSwitch]
    split
    · exact hopen turns
    · exact sameOutside_refl s
  case cueEffectiveSample turns =>
    simp only [momentOf, cueEffectiveSample]
    split
    · exact sameOutside_trans (hopen turns) (sameOutside_applyFirstDue turns _)
    · exact sameOutside_refl s
  case repeatBoundary n =>
    simp only [momentOf, repeatBoundary]
    split
    · exact sameOutside_resolveRepeat n s
    · exact sameOutside_refl s
  case streamLengthReached n =>
    simp only [momentOf, streamLengthReached]
    split
    · exact sameOutside_stepEnd n s
    · exact sameOutside_refl s
  all_goals exact sameOutside_refl s

@[simp] theorem evaluateTemp_pending (r : Int) (s : State) : (evaluateTemp r s).pending = s.pending :=
  (touches_evaluateTemp
    (b := { temp := true, prot := true, events := true }) rfl rfl rfl r s).pending

theorem startUp_pending (cause : ResetCause) (p : Pins) (s : State) :
    (startUp cause p s).pending = s.pending := by
  simp [startUp, resetAnswer, defaults]

/-- No action touches the queue of commands. -/
theorem actionOf_pending (c : Instr) {s : State} (hr : s.resetHeld = false) (ho : s.boundaryOpen = false) :
    (actionOf c s).pending = s.pending := by
  refine actionOf_keeps (P := fun t => t.pending = s.pending) (fun t l h => h) ?_ (fun t _ _ h => h) ?_
    c s hr ho rfl
  · exact fun k t u hr ho _ he h => (he.touches hr ho).pending.trans h
  · exact fun c t hc _ _ h => (touches_actionOf hc t).pending.trans h

end Sys2Proof.Machine

namespace Sys2Proof.Proofs

open Sys2Proof.Machine

/-- Settles O1: `step` is `exec` of the front of the queue by definition. -/
theorem stepTakesTheFrontCommand : Obligations.StepTakesTheFrontCommand := by
  refine ⟨fun c rest s => rfl, fun s hs => ?_⟩
  rw [step, hs]

/-- Settles O2: each of the three forms of a row leaves a next state with the same queue. -/
theorem everyCommandLeavesANextState : Obligations.EveryCommandLeavesANextState := by
  intro c s
  obtain e | ⟨-, e⟩ | e | ⟨cause, p, e⟩ := exec_cases c s <;> refine ⟨_, e, ?_⟩
  · obtain ⟨-, e⟩ | ⟨hr, ho, e⟩ | ⟨hr, -, e⟩ := between_cases (actionOf c) s <;> rw [e]
    · exact actionOf_pending c hr ho
    · obtain ⟨-, -, -, -, hheld, -, hpending⟩ := sameOutside_sampleBoundary [] [] s
      exact (actionOf_pending c (hheld.trans hr) rfl).trans hpending
  · rw [live]
    split
    · rfl
    · obtain ⟨-, -, -, -, -, -, hpending⟩ := momentOf_sameOutside c s
      exact hpending
  · rfl
  · exact startUp_pending cause p s

end Sys2Proof.Proofs
end

section
/-! PROOF. SELECTION_WINDOW: the frame of a message judged (R158 to R160, R171, R173), the windows that carry none,
and the refusals ahead of a block's own checks (R152, R162). -/

namespace Sys2Proof.Machine

/-! ### The header word (R171) -/

theorem bitsOf_headerWord (k : BitVec 8) (m : Msg) (hi lo : Nat) :
    bitsOf (headerWord k m) hi lo =
      bitsOf (put 24 k.toNat) hi lo ||| bitsOf (put 21 m.channel.toNat) hi lo |||
        bitsOf (putFlag 20 m.half) hi lo ||| bitsOf (put 0 m.payload.length) hi lo := by
  simp only [headerWord, bitsOf_or]

section Header

variable {k : BitVec 8} {m : Msg} (hlen : m.payload.length ≤ 256)
include hlen

theorem headerWord_kind : (headerWord k m).extractLsb' 24 8 = k := by
  refine BitVec.eq_of_toNat_eq ?_
  show bitsOf (headerWord k m) 31 24 = k.toNat
  have hk := k.isLt
  have hc := m.channel.isLt
  simp (disch := omega) only [bitsOf_headerWord, bitsOf_put_same, bitsOf_put_below,
    bitsOf_putFlag_outside, Nat.or_zero]

theorem headerWord_channel : (headerWord k m).extractLsb' 21 3 = m.channel := by
  refine BitVec.eq_of_toNat_eq ?_
  show bitsOf (headerWord k m) 23 21 = m.channel.toNat
  have hc := m.channel.isLt
  simp (disch := omega) only [bitsOf_headerWord, bitsOf_put_same, bitsOf_put_below, bitsOf_put_above,
    bitsOf_putFlag_outside, Nat.or_zero, Nat.zero_or]

theorem headerWord_half : flagOf (headerWord k m) 20 = m.half := by
  refine flagOf_eq_of_bitsOf ?_
  simp (disch := omega) only [bitsOf_headerWord, bitsOf_putFlag_same, bitsOf_put_below, bitsOf_put_above,
    Nat.or_zero, Nat.zero_or]

theorem headerWord_length : bitsOf (headerWord k m) 8 0 = m.payload.length := by
  simp (disch := omega) only [bitsOf_headerWord, bitsOf_put_same, bitsOf_put_above,
    bitsOf_putFlag_outside, Nat.zero_or]

end Header

/-! ### The judgement of a window -/

@[simp] theorem ofCode_code (k : Kind) : Kind.ofCode k.code = some k := by
  cases k <;> decide

theorem judgeWindow_words {w : Window} {header : Word} {rest : List Word} (hw : w.words = header :: rest)
    (ht : w.tail = []) (hl : rest.length ≤ 257) :
    judgeWindow w =
      if 256 < bitsOf header 8 0 ∨ rest.length ≠ bitsOf header 8 0 + 1 then .badFrame
      else judgeChecked header rest := by
  have he : windowEdges w = 32 * (rest.length + 1) := by simp [windowEdges, hw, ht]
  rw [judgeWindow, he, if_neg (by omega), if_neg (by omega), if_neg (by simp only [Config.maxWindowWords]; omega),
    hw]
  simp only [Bool.or_eq_true, decide_eq_true_eq]

theorem judgeChecked_frame (k : Kind) {m : Msg} (hlen : m.payload.length ≤ 256) :
    judgeChecked (headerWord k.code m) (m.payload ++ [checkWord (headerWord k.code m :: m.payload)]) =
      .frame k m := by
  have hlast : ∀ x : Word, (m.payload ++ [x]).getLastD 0 = x := fun x => by simp [List.getLastD_eq_getLast?]
  rw [judgeChecked, hlast, List.dropLast_concat, if_neg (by simp), headerWord_kind hlen, ofCode_code]
  simp only [readMsg, headerWord_channel hlen, headerWord_half hlen]

theorem judgeWindow_frame (k : Kind) {m : Msg} (hlen : m.payload.length ≤ 256) :
    judgeWindow (frameWindow k.code m) = .frame k m := by
  have hw : (frameWindow k.code m).words = headerWord k.code m ::
      (m.payload ++ [checkWord (headerWord k.code m :: m.payload)]) := rfl
  rw [judgeWindow_words hw rfl (by simp only [List.length_append, List.length_singleton]; omega), if_neg, judgeChecked_frame k hlen]
  rw [headerWord_length hlen, List.length_append]
  simp only [List.length_singleton]
  omega

theorem judgeWindow_badFrame {w : Window} (h : windowEdges w % 32 ≠ 0 ∨ 8256 < windowEdges w) :
    judgeWindow w = .badFrame := by
  rw [judgeWindow, if_neg (by omega)]
  by_cases h32 : windowEdges w % 32 = 0
  · rw [if_neg (by simpa using h32), if_pos (by simp only [Config.maxWindowWords]; omega)]
  · rw [if_pos h32]

/-! ### SELECTION_WINDOW between two boundaries -/

theorem exec_selectionWindow_ready {s : State} (h : LinkReady s) (w : Window) (r : Int) :
    exec (.selectionWindow w r) s = .next (answerWindow (judgeWindow w) r (receiveWindow w s)) := by
  obtain ⟨⟨hr, ho⟩, ha⟩ := h
  have harm : exec (.selectionWindow w r) s = .next (between (selectionWindow w r) s) := rfl
  rw [harm, between_selectionWindow w r hr ha, finishBoundary_closed ho]

/-- A window that carries no message to take is discarded with its refusal. -/
theorem pendReply_discarded (kind : BitVec 8) {code : ReplyCode} (w : Window) (s : State)
    (hk : echoKind kind code = kind) :
    pendReply kind (refuse (receiveWindow w s) code) = discarded kind code w s := by
  rw [pendReply, refuse_code, hk]
  rfl

theorem selectionWindow_frame (k : Kind) {m : Msg} (hlen : m.payload.length ≤ 256) (r : Int) (s : State) :
    selectionWindow (frameWindow k.code m) r s = takeMessage k m (bodyOf k m r) s := by
  rw [selectionWindow, judgeWindow_frame k hlen, takeMessage,
    if_neg (by simpa using hlen : ¬ Config.maxPayload < m.payload.length)]
  rfl

theorem exec_selectionWindow_frame (k : Kind) {m : Msg} (hlen : m.payload.length ≤ 256) (r : Int)
    (s : State) :
    exec (.selectionWindow (frameWindow k.code m) r) s =
      .next (between (takeMessage k m (bodyOf k m r)) s) := by
  have harm : exec (.selectionWindow (frameWindow k.code m) r) s =
    .next (between (selectionWindow (frameWindow k.code m) r) s) := rfl
  rw [harm, funext (selectionWindow_frame k hlen r)]

theorem exec_rowOf {k : Kind} (hk : k ≠ .devReset) (m : Msg) (r : Int) (s : State) :
    exec (rowOf k m) s = .next (between (takeMessage k m (bodyOf k m r)) s) := by
  cases k
  case devReset => exact absurd rfl hk
  all_goals rfl

/-- A message that reaches its block, told by its row or by its window: the block's answer. -/
theorem exec_window_taken {k : Kind} {m : Msg} {s : State} (h : Taken k m s) (r : Int) :
    exec (.selectionWindow (frameWindow k.code m) r) s =
      .next (pendReply k.code (bodyOf k m r (receiveWindow (frameWindow k.code m) s))) := by
  have hlen : m.payload.length ≤ 256 := h.2.1
  rw [exec_selectionWindow_frame k hlen, takeMessage_taken h]

/-! ### The SCOPE field (R175; log entry 16) -/

@[simp] theorem withScope_channel (v : Nat) (m : Msg) : (withScope v m).channel = m.channel := by
  unfold withScope; split <;> rfl

@[simp] theorem withScope_length (v : Nat) (m : Msg) :
    (withScope v m).payload.length = m.payload.length := by
  unfold withScope; split <;> simp_all

theorem scope_withScope {v : Nat} (hv : v < 4) {m : Msg} (hlen : m.payload.length = 1) :
    bitsOf (msgWord (withScope v m) 0) 1 0 = v := by
  obtain ⟨w, hw⟩ := List.length_eq_one_iff.mp hlen
  have hword : msgWord (withScope v m) 0 = (w &&& ~~~(3#32)) ||| put 0 v := by
    simp [msgWord, withScope, hw]
  have hclear : bitsOf (w &&& ~~~(3#32)) 1 0 = 0 := by
    refine Nat.eq_of_testBit_eq fun i => ?_
    rw [testBit_bitsOf, Nat.zero_testBit]
    rcases Nat.lt_or_ge i 2 with hi | hi
    · obtain rfl | rfl : i = 0 ∨ i = 1 := by omega
      all_goals simp
    · simp only [Bool.and_eq_false_imp, decide_eq_true_eq]
      omega
  rw [hword, bitsOf_or, hclear, bitsOf_put_same (by decide) (by simpa using hv), Nat.zero_or]

theorem bodyDevReset_playback (m : Msg) (r r' : Int) (s : State) :
    bodyDevReset (withScope 1 m) r s = bodyDevReset (withScope 1 m) r' s := by
  simp only [bodyDevReset]
  split
  · rfl
  · rename_i hlen
    rw [if_pos (scope_withScope (by decide) (by simpa using hlen)),
      if_pos (scope_withScope (by decide) (by simpa using hlen))]

/-! ### The classes ahead of the block's own checks (R152, R162, R173) -/

/-- A message refused between two boundaries changes only the link. -/
theorem pendReply_refuse_ready {k : Kind} {m : Msg} {s : State} {code : ReplyCode} (h : LinkReady s)
    (hlen : m.payload.length ≤ 256) (hc : echoKind k.code code = k.code) :
    pendReply k.code (refuse (receiveWindow (frameWindow k.code m) s) code) = answered k m code [] s s := by
  obtain ⟨-, ha⟩ := h
  rw [receiveWindow_frame hlen, pendReply, refuse_code, hc, refuse_state, setLink_link]
  dsimp only
  rw [ha]
  rfl

/-- The payload lengths a kind expects (R173). -/
def Kind.expects : Kind → Nat → Prop
  | .nop, _ | .streamData, _ => True
  | .segWrite, l => 1 ≤ l
  | .identify, l | .devStatus, l | .chStatus, l | .chRestore, l | .listClear, l | .streamFlush, l => l = 0
  | .chMask, l => l = 2
  | .chStart, l => l = 3
  | .chConfig, l => l = 4
  | .listAppend, l => l = 7
  | .listReplace, l => l = 8
  | _, l => l = 1

/-- Each block checks the number of payload words first. -/
theorem bodyOf_unexpected {k : Kind} {m : Msg} (r : Int) (s : State) (h : ¬ k.expects m.payload.length) :
    bodyOf k m r s = refuse s .badVal := by
  cases k
  case nop | streamData => exact absurd trivial h
  case segWrite => exact if_pos (by simpa [Kind.expects] using h)
  all_goals exact if_pos h

theorem bodyDevReset_badScope {m : Msg} (r : Int) (s : State)
    (h : bitsOf (msgWord m 0) 1 0 = 0 ∨ bitsOf (msgWord m 0) 1 0 = 3) :
    bodyDevReset m r s = refuse s .badVal := by
  rw [bodyDevReset]
  split_ifs <;> first | rfl | omega

theorem badChannel_of {k : Kind} {c : BitVec 3}
    (h : c = 4#3 ∨ c = 5#3 ∨ c = 6#3 ∨ (c = 7#3 ∧ k.channelSpecific = true)) : badChannel k c = true := by
  rcases h with rfl | rfl | rfl | ⟨rfl, hk⟩
  · rfl
  · rfl
  · rfl
  · simp [badChannel, hk]

section Refusals

variable {k : Kind} {m : Msg} {s : State} (h : LinkReady s) (hlen : m.payload.length ≤ 256) (r : Int)
include h hlen

theorem exec_window_answer :
    exec (.selectionWindow (frameWindow k.code m) r) s = .next
      (answerMessage k m (bodyOf k m r) (receiveWindow (frameWindow k.code m) s)) := by
  rw [exec_selectionWindow_ready h, judgeWindow_frame k hlen]
  rfl

theorem exec_window_badChan (hb : badChannel k m.channel = true) :
    exec (.selectionWindow (frameWindow k.code m) r) s = .next (answered k m .badChan [] s s) := by
  rw [exec_window_answer h hlen, answerMessage, if_pos hb, pendReply_refuse_ready h hlen rfl]

theorem exec_window_locked (hb : badChannel k m.channel = false) (hk : k.lockable = true)
    (ht : s.temp.state = .lock) :
    exec (.selectionWindow (frameWindow k.code m) r) s = .next (answered k m .locked [] s s) := by
  rw [exec_window_answer h hlen, answerMessage, if_neg (by simp [hb]), if_pos (by simp [hk, ht]),
    pendReply_refuse_ready h hlen rfl]

/-- What the block refuses as out of range, once channel and lock have passed. -/
theorem exec_window_badVal (hb : badChannel k m.channel = false)
    (hk : k.lockable = true → s.temp.state ≠ .lock)
    (hbody : ∀ t, bodyOf k m r t = refuse t .badVal) :
    exec (.selectionWindow (frameWindow k.code m) r) s = .next (answered k m .badVal [] s s) := by
  rw [exec_window_taken ⟨h, hlen, hb, hk⟩, hbody, pendReply_refuse_ready h hlen rfl]

end Refusals

/-- The eight kinds of R152. -/
theorem lockable_iff (k : Kind) : k.lockable = true ↔ k ∈ [Kind.devConfig, .chConfig, .trigConfig, .listClear,
    .listAppend, .listReplace, .chStart, .chRestore] := by
  cases k <;> decide

theorem channelSpecific_iff (k : Kind) : k.channelSpecific = true ↔ k ∈ [Kind.chConfig, .chMask, .chStatus,
    .chRestore, .listClear, .listAppend, .listReplace, .listRead, .streamData, .streamFlush] := by
  cases k <;> decide

end Sys2Proof.Machine

namespace Sys2Proof.Proofs

open Sys2Proof.Machine

/-- Settles O3: the header's fields, the check word and the kind table are read back as they were written. -/
theorem windowCarriesItsFrame : Obligations.WindowCarriesItsFrame :=
  fun k _ hlen => judgeWindow_frame k hlen

/-- Settles O4: the row and the window of a frame are one taking of the message. -/
theorem selectionWindowTakesTheRow : Obligations.SelectionWindowTakesTheRow := by
  refine ⟨fun k m r s hk hlen => ⟨_, exec_rowOf hk m r s, exec_selectionWindow_frame k hlen r s⟩,
    fun m r s hlen => ⟨⟨_, ?playback, exec_selectionWindow_frame _ (by simpa using hlen) r s⟩,
      ⟨_, rfl, exec_selectionWindow_frame _ (by simpa using hlen) r s⟩⟩, fun m r s h => ?nop⟩
  case playback =>
    have hbody : bodyOf .devReset (withScope 1 m) r = bodyDevReset (withScope 1 m) 0 :=
      funext (bodyDevReset_playback m r 0)
    rw [hbody]
    rfl
  case nop =>
    rw [exec_window_taken h]
    exact congrArg _ (pendReply_answered h (by decide) rfl ⟨s.link, rfl⟩)

/-- Settles O5: a window without a message is judged by the first class of R158 to R162 it fails. -/
theorem discardedWindows : Obligations.DiscardedWindows := by
  intro w r s h
  have hexec := exec_selectionWindow_ready h w r
  refine ⟨fun h0 => ?zero, fun hbits => ?bits, fun header rest hw ht hl => ?words⟩
  case zero =>
    have hnil : w.words = [] := by
      have hwords : w.words.length = 0 := by simp only [windowEdges] at h0; omega
      exact List.length_eq_zero_iff.mp hwords
    rw [hexec, judgeWindow, if_pos h0, answerWindow, receiveWindow, h0, hnil]
    rfl
  case bits =>
    rw [hexec, judgeWindow_badFrame hbits]
    exact congrArg _ (pendReply_discarded 0 w s rfl)
  case words =>
    have hjudge := judgeWindow_words hw ht hl
    refine ⟨fun hbad => ?_, fun hlen hmax => ⟨fun hcheck => ?_, fun hcheck hkind => ?_⟩⟩
    · rw [hexec, hjudge, if_pos hbad]
      exact congrArg _ (pendReply_discarded 0 w s rfl)
    · rw [hexec, hjudge, if_neg (by omega), judgeChecked, if_pos hcheck]
      exact congrArg _ (pendReply_discarded 0 w s rfl)
    · have hnone : Kind.ofCode (header.extractLsb' 24 8) = none := by
        simp only [Kind.ofCode, List.find?_eq_none, beq_iff_eq]
        exact fun k _ => hkind k
      rw [hexec, hjudge, if_neg (by omega), judgeChecked, if_neg (by simpa using hcheck), hnone]
      exact congrArg _ (pendReply_discarded _ w s rfl)

/-- Settles O6: the classes of R162 are tested in their order, ahead of every field. -/
theorem channelThenLockRefusals : Obligations.ChannelThenLockRefusals := by
  intro k m r s h hlen
  refine ⟨fun hchan => ?_, fun hb => ⟨fun hlocked => ?_, fun hfree hwrong => ?_, fun hk hone hscope => ?_⟩⟩
  · rw [← channelSpecific_iff] at hchan
    exact exec_window_badChan h hlen r (badChannel_of hchan)
  · rw [← lockable_iff] at hlocked
    exact exec_window_locked h hlen r hb hlocked.2 hlocked.1
  · rw [← lockable_iff] at hfree
    have hunexpected : ¬ k.expects m.payload.length := by cases k <;> exact hwrong
    exact exec_window_badVal h hlen r hb (fun hk ht => hfree ⟨ht, hk⟩)
      (fun t => bodyOf_unexpected r t hunexpected)
  · subst hk
    exact exec_window_badVal h hlen r hb (fun hk => absurd hk (by decide))
      (fun t => bodyDevReset_badScope r t hscope)

end Sys2Proof.Proofs
end

section
/-! PROOF. The rows that carry a message, told once: what the block refuses and what it answers. -/

namespace Sys2Proof.Machine

section Row

variable {k : Kind} {m : Msg} {s : State} (hk : k ≠ .devReset) (h : Taken k m s)
include hk h

/-- A message that reaches its block: the row is the block's answer on the state with the window held. -/
theorem exec_row_taken :
    exec (rowOf k m) s = .next (pendReply k.code
      (bodyOf k m 0 (receiveWindow (frameWindow k.code m) s))) := by
  rw [exec_rowOf hk m 0, takeMessage_taken h]

/-- What the block refuses is answered with its code, and only the link changes. -/
theorem exec_row_refused {code : ReplyCode} (hc : echoKind k.code code = k.code)
    (hbody : bodyOf k m 0 (receiveWindow (frameWindow k.code m) s) =
      refuse (receiveWindow (frameWindow k.code m) s) code) :
    exec (rowOf k m) s = .next (answered k m code [] s s) := by
  have hlen : m.payload.length ≤ 256 := h.2.1
  rw [exec_row_taken hk h, hbody, pendReply_refuse_ready h.1 hlen hc]

/-- What the block accepts is answered OK over the state it leaves, the link apart. -/
theorem exec_row_accepted {u t : State} {payload : List Word}
    (hbody : bodyOf k m 0 (receiveWindow (frameWindow k.code m) s) = accept u payload)
    (hu : u.link = (receiveWindow (frameWindow k.code m) s).link) (ht : ∃ l, t = u.setLink l) :
    exec (rowOf k m) s = .next (answered k m .ok payload s t) := by
  rw [exec_row_taken hk h, hbody]
  exact congrArg _ (pendReply_answered h (by decide) hu ht)

end Row

end Sys2Proof.Machine
end

section
/-! PROOF. Segments: a release merged with its neighbours (R5), SEG-WRITE (R9), SEG-SEAL (R10), SEG-DELETE (R11),
the completion of a clear (R7), and the two queries (R14, R15, R176). -/

namespace Sys2Proof.Machine

/-! ### The release of a run (R5) -/

theorem release_cons_beyond {base a : Nat} {r : Region} (rest : List Region) (ha : 0 < a)
    (hr : r.base + r.len < base) : release base a (r :: rest) = r :: release base a rest := by
  rw [release.eq_def]
  simp only [if_neg (show ¬ base + a < r.base by omega), if_neg (show ¬ base + a = r.base by omega),
    if_neg (show ¬ r.base + r.len = base by omega)]

theorem release_last_touching {base a : Nat} {r : Region} (ha : 0 < a) (hr : r.base + r.len = base) :
    release base a [r] = [⟨r.base, r.len + a⟩] := by
  rw [release.eq_def]
  simp only [if_neg (show ¬ base + a < r.base by omega), if_neg (show ¬ base + a = r.base by omega),
    if_pos hr]

theorem release_cons_touching {base a : Nat} {r q : Region} (rest : List Region) (ha : 0 < a)
    (hr : r.base + r.len = base) :
    release base a (r :: q :: rest) =
      if base + a = q.base then ⟨r.base, r.len + a + q.len⟩ :: rest
      else ⟨r.base, r.len + a⟩ :: q :: rest := by
  rw [release.eq_def]
  simp only [if_neg (show ¬ base + a < r.base by omega), if_neg (show ¬ base + a = r.base by omega),
    if_pos hr]

/-- Regions that end below the run are passed over. -/
theorem release_append {base a : Nat} (ha : 0 < a) {pre : List Region} (l : List Region)
    (hpre : ∀ r ∈ pre, r.base + r.len < base) :
    release base a (pre ++ l) = pre ++ release base a l := by
  induction pre with
  | nil => rfl
  | cons r pre ih =>
    obtain ⟨hr, hpre⟩ := List.forall_mem_cons.mp hpre
    rw [List.cons_append, release_cons_beyond _ ha hr, ih hpre]
    rfl

theorem release_alone {base a : Nat} {post : List Region} (hpost : ∀ r ∈ post, base + a < r.base) :
    release base a post = ⟨base, a⟩ :: post := by
  cases post with
  | nil => rfl
  | cons q post =>
    rw [release.eq_def]
    exact if_pos (hpost q (by simp))

theorem release_left {base a : Nat} (ha : 0 < a) {left : Region} {post : List Region}
    (hleft : left.base + left.len = base) (hpost : ∀ r ∈ post, base + a < r.base) :
    release base a (left :: post) = ⟨left.base, left.len + a⟩ :: post := by
  cases post with
  | nil => exact release_last_touching ha hleft
  | cons q post =>
    have hq := hpost q (by simp)
    rw [release_cons_touching post ha hleft, if_neg (by omega)]

theorem release_right {base a : Nat} {right : Region} (post : List Region)
    (hright : right.base = base + a) :
    release base a (right :: post) = ⟨base, a + right.len⟩ :: post := by
  rw [release.eq_def]
  simp only [if_neg (show ¬ base + a < right.base by omega), if_pos hright.symm]

theorem release_both {base a : Nat} (ha : 0 < a) {left right : Region} (post : List Region)
    (hleft : left.base + left.len = base) (hright : right.base = base + a) :
    release base a (left :: right :: post) = ⟨left.base, left.len + a + right.len⟩ :: post := by
  rw [release_cons_touching post ha hleft, if_pos hright.symm]

/-! ### SEG-WRITE: one equation per outcome (R9) -/

section SegWrite

variable {id off : Nat} {xs : List Sample} {s : State} {g : Segment}

theorem segWrite_count (hn : xs.length < 1 ∨ 510 < xs.length) : segWrite id off xs s = refuse s .badVal := by
  have hguard : (decide (xs.length < 1) || decide (510 < xs.length)) = true := by simpa using hn
  rw [segWrite, if_pos hguard]

variable (hlo : 1 ≤ xs.length) (hhi : xs.length ≤ 510)
include hlo hhi

theorem segWrite_notFound (hg : findSeg s.mem.segs id = none) :
    segWrite id off xs s = refuse s .notFound := by
  rw [segWrite, if_neg (by simp only [Bool.or_eq_true, decide_eq_true_eq]; omega), hg]

theorem segWrite_beyond (hg : findSeg s.mem.segs id = some g) (hl : g.len < off + xs.length) :
    segWrite id off xs s = refuse s .badVal := by
  rw [segWrite, if_neg (by simp only [Bool.or_eq_true, decide_eq_true_eq]; omega), hg]
  exact if_pos hl

variable (hg : findSeg s.mem.segs id = some g) (hl : off + xs.length ≤ g.len)
include hg hl

theorem segWrite_clearing (hst : g.state = .clearing) : segWrite id off xs s = refuse s .busy := by
  rw [segWrite, if_neg (by simp only [Bool.or_eq_true, decide_eq_true_eq]; omega), hg]
  simp only [if_neg (show ¬ g.len < off + xs.length by omega), hst]

theorem segWrite_sealed (hst : g.state = .sealed) : segWrite id off xs s = refuse s .sealed := by
  rw [segWrite, if_neg (by simp only [Bool.or_eq_true, decide_eq_true_eq]; omega), hg]
  simp only [if_neg (show ¬ g.len < off + xs.length by omega), hst]

theorem segWrite_opened (hst : g.state = .opened) :
    segWrite id off xs s = accept (s.setMem { s.mem with
      store := Memory.writeAll s.mem.store (g.base + off) xs }) := by
  rw [segWrite, if_neg (by simp only [Bool.or_eq_true, decide_eq_true_eq]; omega), hg]
  simp only [if_neg (show ¬ g.len < off + xs.length by omega), hst]

end SegWrite

/-! ### SEG-SEAL: one equation per outcome (R10) -/

theorem segSeal_notFound {id : Nat} {s : State} (hg : findSeg s.mem.segs id = none) :
    segSeal id s = refuse s .notFound := by
  rw [segSeal, hg]

section SegSeal

variable {id : Nat} {s : State} {g : Segment} (hg : findSeg s.mem.segs id = some g)
include hg

theorem segSeal_clearing (hst : g.state = .clearing) : segSeal id s = refuse s .busy := by
  simp only [segSeal, hg, hst]

theorem segSeal_sealed (hst : g.state = .sealed) : segSeal id s = refuse s .sealed := by
  simp only [segSeal, hg, hst]

theorem segSeal_opened (hst : g.state = .opened) :
    segSeal id s = accept (s.setMem { s.mem with
      store := padStore g s.mem.store
      segs := updateSeg s.mem.segs id (fun g => { g with state := .sealed }) }) := by
  simp only [segSeal, hg, hst]

end SegSeal

theorem memory_wf_padStore {m : Memory} (g : Segment) (h : Memory.wf m = true) :
    Memory.wf (padStore g m) = true := by
  rw [padStore]
  split
  · exact memory_wf_writeAll _ _ h
  · exact h

/-- A seal writes the sample at L − 1 to positions L to 15 of a padded segment, and nothing else. -/
theorem memory_read_padStore {m : Memory} (g : Segment) (a : Nat) (h : Memory.wf m = true) :
    Memory.read (padStore g m) a =
      if g.padded = true ∧ g.base + g.len ≤ a ∧ a < g.base + 16 then
        Memory.read m (g.base + g.len - 1)
      else Memory.read m a := by
  rw [padStore]
  by_cases hp : g.padded = true
  · rw [if_pos hp, memory_read_writeAll _ _ _ h, List.length_replicate]
    by_cases hin : g.base + g.len ≤ a ∧ a < g.base + 16
    · rw [if_pos (by omega), if_pos ⟨hp, hin⟩, List.getD_eq_getElem?_getD,
        List.getElem?_replicate_of_lt (by omega), Option.getD_some]
    · rw [if_neg (by omega), if_neg (fun hand => hin hand.2)]
  · rw [if_neg hp, if_neg (fun hand => hp hand.1)]

/-! ### SEG-DELETE and SEG_CLEAR_DONE (R7, R11) -/

theorem segDelete_notFound {id : Nat} {s : State} (hg : findSeg s.mem.segs id = none) :
    segDelete id s = refuse s .notFound := by
  rw [segDelete, hg]

theorem segDelete_inUse {id : Nat} {s : State} {g : Segment} (hg : findSeg s.mem.segs id = some g)
    (hrefs : 0 < g.refs) : segDelete id s = refuse s .inUse := by
  simp only [segDelete, hg, if_pos hrefs]

theorem segDelete_free {id : Nat} {s : State} {g : Segment} (hg : findSeg s.mem.segs id = some g)
    (hrefs : g.refs = 0) :
    segDelete id s = accept (s.setMem { s.mem with
      segs := removeSeg s.mem.segs id
      free := release g.base g.alloc s.mem.free
      clearList := s.mem.clearList.filter (fun i => i != id) }) := by
  simp only [segDelete, hg, if_neg (show ¬ 0 < g.refs by omega)]

theorem segClearDone_head {s : State} {id : Nat} {rest : List Nat} {g : Segment}
    (hl : s.mem.clearList = id :: rest) (hg : findSeg s.mem.segs id = some g) (hc : g.state = .clearing) :
    segClearDone s = enterEvent .segCleared none none (some (BitVec.ofNat 32 id)) (s.setMem { s.mem with
      store := Memory.zero s.mem.store g.base g.alloc
      segs := updateSeg s.mem.segs id (fun h => { h with state := .opened, cleared := h.alloc })
      clearList := rest }) := by
  rw [segClearDone, hl]
  dsimp only
  rw [hg]
  exact if_pos hc

/-! ### SEG-QUERY (R14) -/

theorem clearCaughtUp_still {g : Segment} {s : State}
    (h : g.state ≠ .clearing ∨ s.mem.clearList.head? ≠ some g.id ∨ g.alloc ≤ g.cleared) :
    clearCaughtUp g s = s := by
  rw [clearCaughtUp, if_neg]
  simp only [Bool.and_eq_true, decide_eq_true_eq, beq_iff_eq]
  rintro ⟨⟨hstate, hhead⟩, hlt⟩
  rcases h with h | h | h
  · exact h hstate
  · exact h hhead
  · omega

theorem clearCaughtUp_moves {g : Segment} {s : State} (hstate : g.state = .clearing)
    (hhead : s.mem.clearList.head? = some g.id) (hlt : g.cleared < g.alloc) :
    clearCaughtUp g s = (s.setMem { s.mem with
      store := Memory.zero s.mem.store g.base (clearedNow g s)
      segs := updateSeg s.mem.segs g.id (fun h => { h with cleared := clearedNow g s }) }).drawFree := by
  rw [clearCaughtUp, if_pos]
  simp [hstate, hhead, hlt]

theorem findSeg_updateSeg_same {segs : List Segment} {id : Nat} {g : Segment} {f : Segment → Segment}
    (hf : ∀ h, (f h).id = h.id) (hg : findSeg segs id = some g) :
    findSeg (updateSeg segs id f) id = some (f g) := by
  induction segs with
  | nil => cases hg
  | cons h rest ih =>
    simp only [findSeg, updateSeg, List.map_cons, List.find?_cons] at hg ih ⊢
    by_cases hid : h.id = id
    · simp only [hid, beq_self_eq_true, Option.some.injEq] at hg
      subst hg
      simp [hid, hf]
    · have hne : (h.id == id) = false := by simpa using hid
      simp only [hne, if_neg hid] at hg ⊢
      exact ih hg

theorem segQuery_notFound {id : Nat} {s : State} (hg : findSeg s.mem.segs id = none) :
    segQuery id s = refuse s .notFound := by
  rw [segQuery, hg]

theorem segQuery_still {id : Nat} {s : State} {g : Segment} (hg : findSeg s.mem.segs id = some g)
    (h : g.state ≠ .clearing ∨ s.mem.clearList.head? ≠ some id ∨ g.alloc ≤ g.cleared) :
    segQuery id s = accept s (segmentWords g) := by
  have hid := (findSeg_some hg).2
  simp only [segQuery, hg, clearCaughtUp_still (by rwa [hid])]

theorem segQuery_moves {id : Nat} {s : State} {g : Segment} (hg : findSeg s.mem.segs id = some g)
    (hstate : g.state = .clearing) (hhead : s.mem.clearList.head? = some id) (hlt : g.cleared < g.alloc) :
    segQuery id s = accept
      ((s.setMem { s.mem with
        store := Memory.zero s.mem.store g.base (clearedNow g s)
        segs := updateSeg s.mem.segs id (fun h => { h with cleared := clearedNow g s }) }).drawFree)
      (segmentWords { g with cleared := clearedNow g s }) := by
  obtain rfl := (findSeg_some hg).2
  simp only [segQuery, hg, clearCaughtUp_moves hstate hhead hlt, drawFree_mem, setMem_mem]
  rw [findSeg_updateSeg_same (f := fun h => { h with cleared := clearedNow g s }) (fun _ => rfl) hg]

/-! ### The six words of a segment record (R176) -/

theorem put_zero_toNat {v : Nat} (hv : v < 2 ^ 32) : (put 0 v).toNat = v := by
  simp only [put, BitVec.shiftLeft_zero, BitVec.toNat_ofNat, Nat.mod_eq_of_lt hv]

theorem segState_num_lt (x : SegState) : x.num < 2 ^ 2 := by cases x <;> decide

/-- What a field of word 0 holds: of each part put there, the part of it that lies in the field. -/
theorem bitsOf_segmentHead (g : Segment) (hi lo : Nat) :
    bitsOf (put 24 g.id ||| put 20 g.state.num ||| putFlag 19 g.padded ||| put 0 g.refs) hi lo =
      bitsOf (put 24 g.id) hi lo ||| bitsOf (put 20 g.state.num) hi lo ||| bitsOf (putFlag 19 g.padded) hi lo
        ||| bitsOf (put 0 g.refs) hi lo := by
  simp only [bitsOf_or]

end Sys2Proof.Machine

namespace Sys2Proof.Proofs

open Sys2Proof.Machine

/-- Settles O10: the regions below are passed over, and the walk ends at the first neighbour or the gap. -/
theorem releaseMerges : Obligations.ReleaseMerges := by
  intro pre post base a ha hpre hpost
  refine ⟨?_, fun left hleft => ?_, fun right hright => ?_, fun left right hleft hright => ?_⟩ <;>
    rw [release_append ha _ hpre]
  · rw [release_alone hpost]
  · rw [release_left ha hleft hpost]
  · rw [release_right post hright]
  · rw [release_both ha post hleft hright]

/-- Settles O12: one equation of SEG-WRITE per outcome, and the read after the words are written. -/
theorem segWriteStoresSamples : Obligations.SegWriteStoresSamples := by
  intro m s h hlen
  have hbody : ∀ t, bodyOf .segWrite m 0 t = segWrite (bitsOf (msgWord m 0) 31 24)
      (bitsOf (msgWord m 0) 17 0) (samplesOf m.half (m.payload.drop 1)) t := fun t => if_neg hlen
  refine ⟨fun hn => ?_, fun hlo hhi => ⟨fun hg => ?_, fun g hg => ⟨fun hl => ?_, fun hl =>
    ⟨fun hst => ?_, fun hst => ?_, fun hst hstore => ⟨_, ?accepted, memory_wf_writeAll _ _ hstore,
      fun a => memory_read_writeAll _ a _ hstore⟩⟩⟩⟩⟩
  case accepted =>
    exact exec_row_accepted (k := .segWrite) (by decide) h
      ((hbody _).trans (segWrite_opened hlo hhi hg hl hst)) rfl ⟨s.link, rfl⟩
  all_goals refine exec_row_refused (k := .segWrite) (by decide) h rfl ((hbody _).trans ?_)
  · exact segWrite_count hn
  · exact segWrite_notFound hlo hhi hg
  · exact segWrite_beyond hlo hhi hg hl
  · exact segWrite_clearing hlo hhi hg hl hst
  · exact segWrite_sealed hlo hhi hg hl hst

/-- Settles O13: one equation of SEG-SEAL per outcome, and what the padding writes. -/
theorem segSealPadsAndSeals : Obligations.SegSealPadsAndSeals := by
  intro m s h hlen
  have hbody : ∀ t, bodyOf .segSeal m 0 t = segSeal (bitsOf (msgWord m 0) 31 24) t := fun t =>
    if_neg (by simp [hlen])
  refine ⟨fun hg => ?_, fun g hg => ⟨fun hst => ?_, fun hst => ?_, fun hst hstore =>
    ⟨_, ?accepted, memory_wf_padStore g hstore, fun a => memory_read_padStore g a hstore⟩⟩⟩
  case accepted =>
    exact exec_row_accepted (k := .segSeal) (by decide) h ((hbody _).trans (segSeal_opened hg hst)) rfl
      ⟨s.link, rfl⟩
  all_goals refine exec_row_refused (k := .segSeal) (by decide) h rfl ((hbody _).trans ?_)
  · exact segSeal_notFound hg
  · exact segSeal_clearing hg hst
  · exact segSeal_sealed hg hst

/-- Settles O14: one equation of SEG-DELETE per outcome; and the completion of the clear at the head. -/
theorem segDeleteAndClearDone : Obligations.SegDeleteAndClearDone := by
  refine ⟨fun m s h hlen => ?delete, fun s id rest g hb hl hg hc hstore =>
    ⟨_, ?done, memory_wf_zero _ _ hstore, fun a => memory_read_zero _ _ a hstore⟩⟩
  case delete =>
    have hbody : ∀ t, bodyOf .segDelete m 0 t = segDelete (bitsOf (msgWord m 0) 31 24) t := fun t =>
      if_neg (by simp [hlen])
    refine ⟨fun hg => ?_, fun g hg => ⟨fun hrefs => ?_, fun hrefs => ?_⟩⟩
    · exact exec_row_refused (k := .segDelete) (by decide) h rfl ((hbody _).trans (segDelete_notFound hg))
    · exact exec_row_refused (k := .segDelete) (by decide) h rfl
        ((hbody _).trans (segDelete_inUse hg hrefs))
    · exact exec_row_accepted (k := .segDelete) (by decide) h ((hbody _).trans (segDelete_free hg hrefs)) rfl
        ⟨s.link, rfl⟩
  case done =>
    rw [exec_action_between hb rfl rfl, actionOf, segClearDone_head hl hg hc]

/-- Settles O15: the fields of a record's words; SEG-QUERY by whether the clear of its segment moves; and
MEM-QUERY. -/
theorem segmentQueries : Obligations.SegmentQueries := by
  refine ⟨fun g hid hrefs hbase hl hplay halloc hcleared => ?words, fun m s h hlen => ?segQuery,
    fun m s h hlen => ?memQuery⟩
  case words =>
    have hstate := segState_num_lt g.state
    refine ⟨_, _, _, _, _, _, rfl, ?_, ?_, ?_, flagOf_eq_of_bitsOf ?_, ?_, ?_,
      put_zero_toNat (by omega), put_zero_toNat (by omega), put_zero_toNat (by omega),
      put_zero_toNat (by omega), put_zero_toNat (by omega)⟩
    case refine_3 =>
      have hnum : bitsOf (put 24 g.id ||| put 20 g.state.num ||| putFlag 19 g.padded ||| put 0 g.refs) 21 20 =
          g.state.num := by
        simp (disch := omega) only [bitsOf_segmentHead, bitsOf_put_same, bitsOf_put_below, bitsOf_put_above,
          bitsOf_putFlag_outside, Nat.or_zero, Nat.zero_or]
      rw [hnum]
      cases g.state <;> rfl
    all_goals
      simp (disch := omega) only [bitsOf_segmentHead, bitsOf_put_same, bitsOf_put_below, bitsOf_put_above,
        bitsOf_putFlag_same, bitsOf_putFlag_outside, Nat.or_zero, Nat.zero_or]
  case segQuery =>
    have hbody : ∀ t, bodyOf .segQuery m 0 t = segQuery (bitsOf (msgWord m 0) 31 24) t := fun t =>
      if_neg (by simp [hlen])
    refine ⟨fun hg => ?_, fun g hg => ⟨fun hstill => ?_, fun hstate hhead hlt hstore => ?_⟩⟩
    · exact exec_row_refused (k := .segQuery) (by decide) h rfl ((hbody _).trans (segQuery_notFound hg))
    · exact exec_row_accepted (k := .segQuery) (by decide) h ((hbody _).trans (segQuery_still hg hstill)) rfl
        ⟨s.link, rfl⟩
    · refine ⟨clearedNow g s, _, Nat.le_add_right _ _, clearedNow_lt s hlt, ?_,
        memory_wf_zero _ _ hstore, fun a => memory_read_zero _ _ a hstore⟩
      exact exec_row_accepted (k := .segQuery) (by decide) h
        ((hbody _).trans (segQuery_moves hg hstate hhead hlt)) rfl ⟨s.link, rfl⟩
  case memQuery =>
    have hbody : ∀ t, bodyOf .memQuery m 0 t = memQuery (bitsOf (msgWord m 0) 8 0) t := fun t =>
      if_neg (by simp [hlen])
    refine ⟨fun hfirst => ?_, fun hfirst => ?_⟩
    · exact exec_row_refused (k := .memQuery) (by decide) h rfl ((hbody _).trans (if_pos hfirst))
    · exact exec_row_accepted (k := .memQuery) (by decide) h
        ((hbody _).trans (if_neg (by simpa using hfirst))) rfl ⟨s.link, rfl⟩

end Sys2Proof.Proofs
end

section
/-! PROOF. Step lists: LIST-APPEND and LIST-REPLACE (R27, R29, R32), LIST-CLEAR and LIST-READ (R33, R35). -/

namespace Sys2Proof.Machine

/-! ### The segment checks of a record (R27) -/

theorem checkSegment_eq_notReady_iff {s : State} {r : StepRecord} :
    checkSegment s r = .notReady ↔
      ∃ id g, r.source = .memory id ∧ findSeg s.mem.segs id = some g ∧ g.state ≠ .sealed := by
  unfold checkSegment
  cases hsrc : r.source with
  | stream => simp
  | memory id =>
    cases hg : findSeg s.mem.segs id with
    | none => simp [hg]
    | some g => by_cases hst : g.state = .sealed <;> simp [hg, hst]

theorem checkSegment_eq_notFound_iff {s : State} {r : StepRecord} :
    checkSegment s r = .notFound ↔ ∃ id, r.source = .memory id ∧ findSeg s.mem.segs id = none := by
  unfold checkSegment
  cases hsrc : r.source with
  | stream => simp
  | memory id =>
    cases hg : findSeg s.mem.segs id with
    | none => simp [hg]
    | some g => by_cases hst : g.state = .sealed <;> simp [hg, hst]

/-! ### ARMED or RUNNING -/

theorem active_iff (c : Channel) : c.active = true ↔ c.playback = .armed ∨ c.playback = .running := by
  simp [Channel.active]

theorem inactive_iff (c : Channel) : c.active = false ↔ c.playback = .idle ∨ c.playback = .done := by
  unfold Channel.active
  cases c.playback <;> decide

/-! ### LIST-APPEND: one equation per outcome (R29) -/

section ListAppend

variable {n : Ch} {r : StepRecord} {s : State}

theorem listAppend_badVal (hr : r.inRange = false) : listAppend n r s = refuse s .badVal := by
  simp [listAppend, hr]

variable (hr : r.inRange = true)
include hr

theorem listAppend_notReady (hc : checkSegment s r = .notReady) :
    listAppend n r s = refuse s .notReady := by
  simp [listAppend, hr, hc]

theorem listAppend_full (hc : checkSegment s r ≠ .notReady) (hl : 64 ≤ (s.ch n).list.length) :
    listAppend n r s = refuse s .full := by
  simp [listAppend, hr, hc, hl]

theorem listAppend_notFound (hl : (s.ch n).list.length < 64) (hc : checkSegment s r = .notFound) :
    listAppend n r s = refuse s .notFound := by
  simp [listAppend, hr, hc, Nat.not_le.mpr hl]

theorem listAppend_accepted (hl : (s.ch n).list.length < 64) (hready : checkSegment s r ≠ .notReady)
    (hfound : checkSegment s r ≠ .notFound) :
    listAppend n r s = accept
      ((s.setMem (refIn s.mem r)).setCh n { s.ch n with list := (s.ch n).list ++ [newSlot r] })
      [put 0 (s.ch n).list.length] := by
  simp [listAppend, hr, hready, hfound, Nat.not_le.mpr hl]

end ListAppend

/-! ### LIST-REPLACE: one equation per outcome (R32) -/

section ListReplace

variable {n : Ch} {idx : Nat} {r : StepRecord} {s : State}

theorem listReplace_badVal (h : (s.ch n).list.length ≤ idx ∨ r.inRange = false) :
    listReplace n idx r s = refuse s .badVal := by
  simp only [listReplace]
  split
  · rfl
  · rename_i old hold
    have hlt := (List.getElem?_eq_some_iff.mp hold).1
    rw [if_pos (by simpa using h.resolve_left (by omega))]

variable {old : Slot} (hold : (s.ch n).list[idx]? = some old) (hr : r.inRange = true)
include hold hr

theorem listReplace_busy (ha : (s.ch n).active = true) : listReplace n idx r s = refuse s .busy := by
  simp [listReplace, hold, hr, ha]

variable (ha : (s.ch n).active = false)
include ha

theorem listReplace_notReady (hc : checkSegment s r = .notReady) :
    listReplace n idx r s = refuse s .notReady := by
  simp [listReplace, hold, hr, ha, hc]

theorem listReplace_notFound (hc : checkSegment s r = .notFound) :
    listReplace n idx r s = refuse s .notFound := by
  simp [listReplace, hold, hr, ha, hc]

theorem listReplace_accepted (hready : checkSegment s r ≠ .notReady)
    (hfound : checkSegment s r ≠ .notFound) :
    listReplace n idx r s = accept ((s.setMem (refIn (refOut s.mem old.record) r)).setCh n
      { s.ch n with list := (s.ch n).list.set idx (newSlot r) }) := by
  simp [listReplace, hold, hr, ha, hready, hfound]

end ListReplace

/-! ### LIST-CLEAR and LIST-READ (R33, R35) -/

/-- A record taken out of a list lowers the count of the segment it names. -/
theorem refOut_eq (m : SegMem) (t : Slot) :
    refOut m t.record = { m with
      segs := m.segs.map fun g => { g with refs := g.refs - if namesSeg g.id t then 1 else 0 } } := by
  unfold refOut
  cases hsrc : t.record.source with
  | stream => simp [namesSeg, hsrc]
  | memory id =>
    simp only [lowerRef, updateSeg, namesSeg, hsrc]
    congr 1
    refine List.map_congr_left fun g _ => ?_
    by_cases hid : g.id = id
    · simp [hid]
    · simp [hid, Ne.symm hid]

/-- With all its steps taken out, a list lowers each segment's count by the number that name it. -/
theorem foldl_refOut (l : List Slot) (m : SegMem) :
    l.foldl (fun m t => refOut m t.record) m = { m with
      segs := m.segs.map fun g => { g with refs := g.refs - l.countP (namesSeg g.id) } } := by
  induction l generalizing m with
  | nil => simp
  | cons t l ih =>
    rw [List.foldl_cons, ih, refOut_eq]
    simp only [List.map_map, List.countP_cons]
    congr 1
    refine List.map_congr_left fun g _ => ?_
    simp only [Function.comp]
    congr 1
    omega

theorem listClear_busy {n : Ch} {s : State} (ha : (s.ch n).active = true) :
    listClear n s = refuse s .busy := by
  simp [listClear, ha]

theorem listClear_accepted {n : Ch} {s : State} (ha : (s.ch n).active = false) :
    listClear n s = accept
      ((s.setMem { s.mem with segs := s.mem.segs.map fun g =>
        { g with refs := g.refs - (s.ch n).list.countP (namesSeg g.id) } }).setCh n
          { s.ch n with list := [], pendingCues := 0 }) := by
  simp [listClear, ha, foldl_refOut]

theorem listRead_beyond {n : Ch} {idx : Nat} {s : State} (h : (s.ch n).list.length ≤ idx) :
    listRead n idx s = refuse s .badVal := by
  simp [listRead, List.getElem?_eq_none h]

theorem listRead_found {n : Ch} {idx : Nat} {s : State} {t : Slot} (h : (s.ch n).list[idx]? = some t) :
    listRead n idx s =
      accept s ((put 16 (s.ch n).list.length ||| put 0 t.loops) :: recordWords t.record) := by
  simp [listRead, h]

end Sys2Proof.Machine

namespace Sys2Proof.Proofs

open Sys2Proof.Machine

/-- Settles O16: one equation per outcome of each of the two messages. -/
theorem listAppendAndReplace : Obligations.ListAppendAndReplace := by
  refine ⟨fun m s h hlen => ?append, fun m s h hlen => ?replace⟩
  case append =>
    have hbody : ∀ t, bodyOf .listAppend m 0 t = listAppend (chOf m.channel) (readRecord m.payload) t :=
      fun t => if_neg (by simp [hlen])
    refine ⟨fun hr => ?_, fun hr => ⟨fun id g hsrc hg hst => ?_, fun hready => ⟨fun hl => ?_, fun hl =>
      ⟨fun id hsrc hg => ?_, fun hfound => ?accepted⟩⟩⟩⟩
    case accepted =>
      have hready' : checkSegment s (readRecord m.payload) ≠ .notReady := fun hc => by
        obtain ⟨id, g, hsrc, hg, hst⟩ := checkSegment_eq_notReady_iff.mp hc
        exact hst (hready id g hsrc hg)
      have hfound' : checkSegment s (readRecord m.payload) ≠ .notFound := fun hc => by
        obtain ⟨id, hsrc, hg⟩ := checkSegment_eq_notFound_iff.mp hc
        simpa [hg] using hfound id hsrc
      exact exec_row_accepted (k := .listAppend) (by decide) h
        ((hbody _).trans (listAppend_accepted hr hl hready' hfound')) rfl ⟨s.link, rfl⟩
    all_goals refine exec_row_refused (k := .listAppend) (by decide) h rfl ((hbody _).trans ?_)
    · exact listAppend_badVal hr
    · exact listAppend_notReady hr (checkSegment_eq_notReady_iff.mpr ⟨id, g, hsrc, hg, hst⟩)
    · refine listAppend_full hr (fun hc => ?_) hl
      obtain ⟨id, g, hsrc, hg, hst⟩ := checkSegment_eq_notReady_iff.mp hc
      exact hst (hready id g hsrc hg)
    · exact listAppend_notFound hr hl (checkSegment_eq_notFound_iff.mpr ⟨id, hsrc, hg⟩)
  case replace =>
    have hbody : ∀ t, bodyOf .listReplace m 0 t = listReplace (chOf m.channel)
        (bitsOf (msgWord m 0) 7 0) (readRecord (m.payload.drop 1)) t := fun t => if_neg (by simp [hlen])
    refine ⟨fun hbad => ?_, fun old hold hr => ⟨fun hactive => ?_, fun hinactive =>
      ⟨fun id g hsrc hg hst => ?_, fun id hsrc hg => ?_, fun hsealed => ?accepted⟩⟩⟩
    case accepted =>
      have hready : checkSegment s (readRecord (m.payload.drop 1)) ≠ .notReady := fun hc => by
        obtain ⟨id, g, hsrc, hg, hst⟩ := checkSegment_eq_notReady_iff.mp hc
        obtain ⟨g', hg', hst'⟩ := hsealed id hsrc
        obtain rfl := Option.some.inj (hg.symm.trans hg')
        exact hst hst'
      have hfound : checkSegment s (readRecord (m.payload.drop 1)) ≠ .notFound := fun hc => by
        obtain ⟨id, hsrc, hg⟩ := checkSegment_eq_notFound_iff.mp hc
        obtain ⟨g', hg', -⟩ := hsealed id hsrc
        cases hg.symm.trans hg'
      exact exec_row_accepted (k := .listReplace) (by decide) h ((hbody _).trans
        (listReplace_accepted hold hr ((inactive_iff _).mpr hinactive) hready hfound)) rfl ⟨s.link, rfl⟩
    all_goals refine exec_row_refused (k := .listReplace) (by decide) h rfl ((hbody _).trans ?_)
    · exact listReplace_badVal hbad
    · exact listReplace_busy hold hr ((active_iff _).mpr hactive)
    · exact listReplace_notReady hold hr ((inactive_iff _).mpr hinactive)
        (checkSegment_eq_notReady_iff.mpr ⟨id, g, hsrc, hg, hst⟩)
    · exact listReplace_notFound hold hr ((inactive_iff _).mpr hinactive)
        (checkSegment_eq_notFound_iff.mpr ⟨id, hsrc, hg⟩)

/-- Settles O17: one equation per outcome of each of the two messages; the counts fall step by step. -/
theorem listClearAndRead : Obligations.ListClearAndRead := by
  refine ⟨fun m s h hlen => ?clear, fun m s h hlen => ?read⟩
  case clear =>
    have hbody : ∀ t, bodyOf .listClear m 0 t = listClear (chOf m.channel) t :=
      fun t => if_neg (by simp [hlen])
    refine ⟨fun hactive => ?_, fun hinactive => ?_⟩
    · exact exec_row_refused (k := .listClear) (by decide) h rfl
        ((hbody _).trans (listClear_busy ((active_iff _).mpr hactive)))
    · exact exec_row_accepted (k := .listClear) (by decide) h
        ((hbody _).trans (listClear_accepted ((inactive_iff _).mpr hinactive))) rfl ⟨s.link, rfl⟩
  case read =>
    have hbody : ∀ t, bodyOf .listRead m 0 t = listRead (chOf m.channel) (bitsOf (msgWord m 0) 7 0) t :=
      fun t => if_neg (by simp [hlen])
    refine ⟨fun hbeyond => ?_, fun t ht => ?_⟩
    · exact exec_row_refused (k := .listRead) (by decide) h rfl ((hbody _).trans (listRead_beyond hbeyond))
    · exact exec_row_accepted (k := .listRead) (by decide) h ((hbody _).trans (listRead_found ht)) rfl
        ⟨s.link, rfl⟩

end Sys2Proof.Proofs
end

section
/-! PROOF. Channel messages: CH-CONFIG (R63, R64), CH-START (R42 to R47), CH-STOP (R60) and STREAM-FLUSH (R95). -/

namespace Sys2Proof.Machine

/-! ### One operation on each named channel -/

/-- The four values with those of the listed channels changed. -/
def Quad.mapOn {α : Type} (l : List Ch) (f : α → α) (q : Quad α) : Quad α :=
  ⟨if .ch0 ∈ l then f q.c0 else q.c0, if .ch1 ∈ l then f q.c1 else q.c1,
    if .ch2 ∈ l then f q.c2 else q.c2, if .ch3 ∈ l then f q.c3 else q.c3⟩

theorem quad_get_mapOn {α : Type} (l : List Ch) (f : α → α) (q : Quad α) (n : Ch) :
    (q.mapOn l f).get n = if n ∈ l then f (q.get n) else q.get n := by
  cases n <;> rfl

/-- Channels changed one after the other, none twice, are changed side by side. -/
theorem eachCh_setCh {l : List Ch} (hl : l.Nodup) (f : Channel → Channel) (s : State) :
    eachCh l (fun n t => t.setCh n (f (t.ch n))) s = { s with chans := s.chans.mapOn l f } := by
  induction l generalizing s with
  | nil => cases s; rfl
  | cons n l ih =>
    obtain ⟨hn, hl⟩ := List.nodup_cons.mp hl
    rw [eachCh_cons, ih hl]
    refine congrArg (fun q => { s with chans := q }) (quad_ext fun k => ?_)
    rw [quad_get_mapOn, quad_get_mapOn]
    by_cases hk : k = n
    · subst hk
      simp [hn, State.ch]
    · simp [hk, quad_get_set_ne]

theorem mem_maskChannels (w : Word) (n : Ch) : n ∈ maskChannels w ↔ flagOf w (chNum n) = true := by
  have hall : n ∈ allCh := by cases n <;> decide
  simp [maskChannels, hall]

theorem maskChannels_isEmpty (w : Word) :
    (maskChannels w).isEmpty = true ↔ ∀ n, flagOf w (chNum n) = false := by
  simp only [List.isEmpty_iff, List.eq_nil_iff_forall_not_mem, mem_maskChannels, Bool.not_eq_true]

/-! ### CH-CONFIG (R63, R64, R178) -/

/-- The ranges of the six settings (R63). -/
def settingsGood (m : Msg) : Prop :=
  signedOf (msgWord m 0) 31 16 ≤ signedOf (msgWord m 0) 15 0 ∧
    signedOf (msgWord m 0) 31 16 ≤ signedOf (msgWord m 1) 31 16 ∧
    signedOf (msgWord m 1) 31 16 ≤ signedOf (msgWord m 0) 15 0 ∧ bitsOf (msgWord m 1) 1 0 ≤ 1 ∧
    bitsOf (msgWord m 2) 29 16 ≤ 8191 ∧ 1 ≤ bitsOf (msgWord m 2) 13 0 ∧ bitsOf (msgWord m 2) 13 0 ≤ 8192 ∧
    bitsOf (msgWord m 2) 29 16 < bitsOf (msgWord m 2) 13 0 ∧ 1 ≤ bitsOf (msgWord m 3) 13 0 ∧
    bitsOf (msgWord m 3) 13 0 ≤ 8192

/-- The settings the four words spell. -/
def settingsSpelled (m : Msg) : Settings :=
  ⟨signedOf (msgWord m 0) 31 16, signedOf (msgWord m 0) 15 0, signedOf (msgWord m 1) 31 16,
    if bitsOf (msgWord m 1) 1 0 = 1 then .hold else .park, bitsOf (msgWord m 2) 29 16,
    bitsOf (msgWord m 2) 13 0, bitsOf (msgWord m 3) 13 0⟩

theorem endActionOf_eq (v : Nat) :
    endActionOf v = if v ≤ 1 then some (if v = 1 then .hold else .park) else none := by
  unfold endActionOf
  obtain rfl | rfl | hv : v = 0 ∨ v = 1 ∨ 2 ≤ v := by omega
  · rfl
  · rfl
  · simp [show v ≠ 0 by omega, show v ≠ 1 by omega, show ¬ v ≤ 1 by omega]

theorem settingsOf_good {m : Msg} (h : settingsGood m) : settingsOf m = some (settingsSpelled m) := by
  obtain ⟨h1, h2, h3, hact, h4, h5, h6, h7, h8, h9⟩ := h
  simp [settingsOf, endActionOf_eq, hact, h1, h2, h3, h4, h5, h6, h7, h8, h9, settingsSpelled]

theorem settingsOf_bad {m : Msg} (h : ¬ settingsGood m) : settingsOf m = none := by
  rw [settingsOf, endActionOf_eq]
  by_cases hact : bitsOf (msgWord m 1) 1 0 ≤ 1
  · rw [if_pos hact]
    refine if_neg fun hgood => h ?_
    simp only [Bool.and_eq_true, decide_eq_true_eq] at hgood
    obtain ⟨⟨⟨⟨⟨⟨⟨⟨h1, h2⟩, h3⟩, h4⟩, h5⟩, h6⟩, h7⟩, h8⟩, h9⟩ := hgood
    exact ⟨h1, h2, h3, hact, h4, h5, h6, h7, h8, h9⟩
  · rw [if_neg hact]

theorem bodyChConfig_badVal {m : Msg} (hlen : m.payload.length = 4) (h : ¬ settingsGood m) (s : State) :
    bodyChConfig m s = refuse s .badVal := by
  rw [bodyChConfig, if_neg (by simp [hlen]), settingsOf_bad h]

theorem bodyChConfig_good {m : Msg} (hlen : m.payload.length = 4) (h : settingsGood m) (s : State) :
    bodyChConfig m s = chConfig (chOf m.channel) (settingsSpelled m) s := by
  rw [bodyChConfig, if_neg (by simp [hlen]), settingsOf_good h]

theorem chConfig_busy {n : Ch} {t : Settings} {s : State} (ha : (s.ch n).active = true) :
    chConfig n t s = refuse s .busy := if_pos ha

theorem chConfig_accepted {n : Ch} {t : Settings} {s : State} (ha : (s.ch n).active = false) :
    chConfig n t s =
      accept (s.setCh n { s.ch n with settings := t, hold := configuredHold (s.ch n) t }) :=
  if_neg (by simp [ha])

theorem configuredHold_spelled (c : Channel) (m : Msg) :
    configuredHold c (settingsSpelled m) =
      if c.playback = .done ∧ bitsOf (msgWord m 1) 1 0 = 1 then
        clamp c.hold (signedOf (msgWord m 0) 31 16) (signedOf (msgWord m 0) 15 0)
      else signedOf (msgWord m 1) 31 16 := by
  by_cases hact : bitsOf (msgWord m 1) 1 0 = 1 <;> simp [configuredHold, settingsSpelled, hact]

/-! ### CH-START (R42 to R47) -/

/-- The fields of a CH-START that no channel is tested for (R42). -/
def startFieldsBad (m : Msg) : Prop :=
  (∀ n : Ch, flagOf (msgWord m 0) (chNum n) = false) ∨
    (flagOf (msgWord m 0) 16 = true ∧
      (bitsOf (msgWord m 0) 15 8 < 1 ∨ 63 < bitsOf (msgWord m 0) 15 8 ∨ flagOf (msgWord m 0) 17 = true))

/-- The start condition the fields name. -/
def startNamed (m : Msg) : StartCond :=
  if flagOf (msgWord m 0) 16 = true then .cue (bitsOf (msgWord m 0) 15 8)
  else if flagOf (msgWord m 0) 17 = true then .time ((msgWord m 1).extractLsb' 0 16 ++ msgWord m 2)
  else .none

theorem startCondOf_bad {m : Msg} (h : startFieldsBad m) : startCondOf m = none := by
  simp only [startCondOf]
  split_ifs with hempty hcue hboth hcueP htimeP
  case pos | pos | pos => rfl
  all_goals
    rw [maskChannels_isEmpty] at hempty
    simp only [Bool.and_eq_true, Bool.or_eq_true, decide_eq_true_eq] at hcue hboth
    rcases h with h | ⟨hp, h⟩
    · exact absurd h hempty
    · exfalso
      rcases h with h | h | h
      · exact hcue ⟨hp, .inl h⟩
      · exact hcue ⟨hp, .inr h⟩
      · exact hboth ⟨hp, h⟩

theorem startCondOf_good {m : Msg} (h : ¬ startFieldsBad m) : startCondOf m = some (startNamed m) := by
  rw [startFieldsBad, not_or] at h
  obtain ⟨hnamed, hfields⟩ := h
  simp only [startCondOf, startNamed]
  rw [if_neg (by rwa [maskChannels_isEmpty])]
  by_cases hcue : flagOf (msgWord m 0) 16 = true
  · have hrange : ¬ (bitsOf (msgWord m 0) 15 8 < 1 ∨ 63 < bitsOf (msgWord m 0) 15 8 ∨
        flagOf (msgWord m 0) 17 = true) := fun hbad => hfields ⟨hcue, hbad⟩
    rw [not_or, not_or] at hrange
    obtain ⟨hlo, hhi, htime⟩ := hrange
    simp [hcue, hlo, hhi, htime]
  · by_cases htime : flagOf (msgWord m 0) 17 = true <;> simp [hcue, htime]

theorem bodyChStart_badVal {m : Msg} (hlen : m.payload.length = 3) (h : startFieldsBad m) (s : State) :
    bodyChStart m s = refuse s .badVal := by
  rw [bodyChStart, if_neg (by simp [hlen]), startCondOf_bad h]

theorem bodyChStart_good {m : Msg} (hlen : m.payload.length = 3) (h : ¬ startFieldsBad m) (s : State) :
    bodyChStart m s = chStart (maskChannels (msgWord m 0)) (startNamed m) s := by
  rw [bodyChStart, if_neg (by simp [hlen]), startCondOf_good h]

section ChStart

variable {w : Word} {c : StartCond} {s : State}

theorem chStart_shut (h : ∃ n, flagOf w (chNum n) = true ∧ (s.pr n).state = .shut) :
    chStart (maskChannels w) c s = refuse s .shut := by
  obtain ⟨n, hn, hst⟩ := h
  rw [chStart, if_pos]
  simp only [List.any_eq_true, beq_iff_eq]
  exact ⟨n, (mem_maskChannels w n).mpr hn, hst⟩

theorem any_active_false
    (hidle : ∀ n, flagOf w (chNum n) = true → (s.ch n).playback = .idle ∨ (s.ch n).playback = .done) :
    ¬ (maskChannels w).any (fun n => (s.ch n).active) = true := by
  rintro hany
  obtain ⟨n, hn, ha⟩ := List.any_eq_true.mp hany
  rw [(inactive_iff _).mpr (hidle n ((mem_maskChannels w n).mp hn))] at ha
  cases ha

variable (hshut : ∀ n, flagOf w (chNum n) = true → (s.pr n).state ≠ .shut)
include hshut

theorem any_shut_false : ¬ (maskChannels w).any (fun n => (s.pr n).state == .shut) = true := by
  rintro hany
  obtain ⟨n, hn, hst⟩ := List.any_eq_true.mp hany
  exact hshut n ((mem_maskChannels w n).mp hn) (by simpa using hst)

theorem chStart_busy
    (h : ∃ n, flagOf w (chNum n) = true ∧ ((s.ch n).playback = .armed ∨ (s.ch n).playback = .running)) :
    chStart (maskChannels w) c s = refuse s .busy := by
  obtain ⟨n, hn, hpb⟩ := h
  rw [chStart, if_neg (any_shut_false hshut), if_pos]
  simp only [List.any_eq_true]
  exact ⟨n, (mem_maskChannels w n).mpr hn, (active_iff _).mpr hpb⟩

variable (hidle : ∀ n, flagOf w (chNum n) = true → (s.ch n).playback = .idle ∨ (s.ch n).playback = .done)
include hidle

theorem chStart_notReady (h : ∃ n, flagOf w (chNum n) = true ∧ (s.ch n).list = []) :
    chStart (maskChannels w) c s = refuse s .notReady := by
  obtain ⟨n, hn, hl⟩ := h
  rw [chStart, if_neg (any_shut_false hshut), if_neg (any_active_false hidle), if_pos]
  simp only [List.any_eq_true]
  exact ⟨n, (mem_maskChannels w n).mpr hn, by simp [hl]⟩

theorem chStart_accepted (hlist : ∀ n, flagOf w (chNum n) = true → (s.ch n).list ≠ []) :
    chStart (maskChannels w) c s = accept (reportLate c { s with
      chans := s.chans.mapOn (maskChannels w) fun x => x.arm c (startBoundary c s.dev.counter) }) := by
  rw [chStart, if_neg (any_shut_false hshut), if_neg (any_active_false hidle), if_neg]
  · exact congrArg (fun t => accept (reportLate c t))
      (eachCh_setCh (maskChannels_nodup w) (fun x => x.arm c (startBoundary c s.dev.counter)) s)
  · rintro hany
    obtain ⟨n, hn, hempty⟩ := List.any_eq_true.mp hany
    exact hlist n ((mem_maskChannels w n).mp hn) (by simpa using hempty)

end ChStart

/-- An accepted CH-START leaves each named channel ARMED and the others as they were. -/
theorem get_mapOn_arm (w : Word) (q : Quad Channel) (c : StartCond) (b : Option Counter) (n : Ch) :
    (q.mapOn (maskChannels w) fun x => x.arm c b).get n =
      if flagOf w (chNum n) = true then (q.get n).arm c b else q.get n := by
  rw [quad_get_mapOn]
  simp only [mem_maskChannels]

theorem startLate_iff (t now : Counter) :
    startLate t now = true ↔ (t - now).toNat = 0 ∨ 2 ^ 47 ≤ (t - now).toNat := by
  have hzero : t - now = 0 ↔ (t - now).toNat = 0 := by
    constructor
    · intro h; rw [h]; rfl
    · intro h; exact BitVec.eq_of_toNat_eq h
  rw [startLate, Bool.or_eq_true, decide_eq_true_eq, hzero, BitVec.msb_eq_decide, decide_eq_true_eq]

theorem reportLate_future {t : Counter} {s : State} (h : startLate t s.dev.counter = false) :
    reportLate (.time t) s = s :=
  if_neg (by simp [h])

theorem reportLate_late {t : Counter} {s : State} (h : startLate t s.dev.counter = true) :
    reportLate (.time t) s =
      enterEvent .startLate none none (some ((s.dev.counter + 1 - t).setWidth 32)) s :=
  if_pos h

/-- The start time of a CH-START (R175). -/
def startTimeOf (m : Msg) : Counter := (msgWord m 1).extractLsb' 0 16 ++ msgWord m 2

/-- The channels as an accepted CH-START with that start time leaves them. -/
def armedAt (m : Msg) (s : State) : Quad Channel :=
  s.chans.mapOn (maskChannels (msgWord m 0)) fun x =>
    x.arm (.time (startTimeOf m)) (startBoundary (.time (startTimeOf m)) s.dev.counter)

theorem bodyChStart_time {m : Msg} {s : State} (hlen : m.payload.length = 3)
    (hsome : ∃ n, flagOf (msgWord m 0) (chNum n) = true) (hcue : flagOf (msgWord m 0) 16 = false)
    (htime : flagOf (msgWord m 0) 17 = true)
    (hready : ∀ n, flagOf (msgWord m 0) (chNum n) = true → (s.pr n).state ≠ .shut ∧
      ((s.ch n).playback = .idle ∨ (s.ch n).playback = .done) ∧ (s.ch n).list ≠ []) :
    bodyChStart m s = accept (reportLate (.time (startTimeOf m)) { s with chans := armedAt m s }) := by
  have hgood : ¬ startFieldsBad m := by
    rintro (hnone | ⟨hp, -⟩)
    · obtain ⟨n, hn⟩ := hsome
      rw [hnone n] at hn
      cases hn
    · rw [hcue] at hp
      cases hp
  have hnamed : startNamed m = .time (startTimeOf m) := by simp [startNamed, hcue, htime, startTimeOf]
  rw [bodyChStart_good hlen hgood, hnamed, chStart_accepted (fun n hn => (hready n hn).1)
    (fun n hn => (hready n hn).2.1) (fun n hn => (hready n hn).2.2)]
  rfl

/-! ### CH-STOP and STREAM-FLUSH (R60, R95, R96) -/

theorem chStop_badVal {w : Word} {flush : Bool} {s : State} (h : ∀ n, flagOf w (chNum n) = false) :
    chStop (maskChannels w) flush s = refuse s .badVal :=
  if_pos ((maskChannels_isEmpty w).mpr h)

theorem chStop_accepted {w : Word} {flush : Bool} {s : State} (h : ∃ n, flagOf w (chNum n) = true) :
    chStop (maskChannels w) flush s =
      accept { s with chans := s.chans.mapOn (maskChannels w) (stopChannel flush) } := by
  obtain ⟨n, hn⟩ := h
  rw [chStop, if_neg, eachCh_setCh (maskChannels_nodup w)]
  rw [maskChannels_isEmpty]
  intro hall
  rw [hall n] at hn
  cases hn

end Sys2Proof.Machine

namespace Sys2Proof.Proofs

open Sys2Proof.Machine

/-- Settles O18: the ranges decide whether the words spell settings, and then the playback state. -/
theorem channelConfiguration : Obligations.ChannelConfiguration := by
  intro m s h hlen
  refine ⟨fun hbad => ?_, fun hgood => ⟨fun hactive => ?_, fun hinactive => ?_⟩⟩
  · exact exec_row_refused (k := .chConfig) (by decide) h rfl (bodyChConfig_badVal hlen hbad _)
  · exact exec_row_refused (k := .chConfig) (by decide) h rfl
      ((bodyChConfig_good hlen hgood _).trans (chConfig_busy ((active_iff _).mpr hactive)))
  · rw [← configuredHold_spelled]
    exact exec_row_accepted (k := .chConfig) (by decide) h
      ((bodyChConfig_good hlen hgood _).trans (chConfig_accepted ((inactive_iff _).mpr hinactive))) rfl
      ⟨s.link, rfl⟩

/-- Settles O20: one equation of CH-START per outcome; the named channels are armed side by side. -/
theorem startChecksAndArming : Obligations.StartChecksAndArming := by
  intro m s h hlen
  refine ⟨fun hbad => ?_, fun hgood => ⟨fun hshut => ?_, fun hshut => ⟨fun hbusy => ?_, fun hidle =>
    ⟨fun hempty => ?_, fun hlist htime => ?_⟩⟩⟩⟩
  · exact exec_row_refused (k := .chStart) (by decide) h rfl (bodyChStart_badVal hlen hbad _)
  · exact exec_row_refused (k := .chStart) (by decide) h rfl
      ((bodyChStart_good hlen hgood _).trans (chStart_shut hshut))
  · exact exec_row_refused (k := .chStart) (by decide) h rfl
      ((bodyChStart_good hlen hgood _).trans (chStart_busy hshut hbusy))
  · exact exec_row_refused (k := .chStart) (by decide) h rfl
      ((bodyChStart_good hlen hgood _).trans (chStart_notReady hshut hidle hempty))
  · have hnamed : startNamed m =
        if flagOf (msgWord m 0) 16 = true then .cue (bitsOf (msgWord m 0) 15 8) else .none := by
      simp [startNamed, htime]
    have hlate : ∀ t, reportLate (startNamed m) t = t := by
      rw [hnamed]
      intro t
      split <;> rfl
    have hbody := fun t hs hi hl => (bodyChStart_good hlen hgood t).trans
      ((chStart_accepted (s := t) hs hi hl).trans (congrArg accept (hlate _)))
    refine ⟨_, exec_row_accepted (k := .chStart) (by decide) h (hbody _ hshut hidle hlist) rfl ⟨s.link, rfl⟩,
      fun n => ?_⟩
    rw [get_mapOn_arm, hnamed]
    by_cases hcue : flagOf (msgWord m 0) 16 = true <;> simp only [hcue] <;> rfl

/-- Settles O21: the start boundary and START_LATE by the difference of the counter values. -/
theorem startTimes : Obligations.StartTimes := by
  intro m s h hlen w named T N hsome hcue htime hready
  have hbody : bodyOf .chStart m 0 (receiveWindow (frameWindow Kind.chStart.code m) s) = _ :=
    bodyChStart_time hlen hsome hcue htime hready
  refine ⟨armedAt m s, if startLate T N then N + 1 else T, fun n => get_mapOn_arm w s.chans _ _ n,
    fun hd => ?_, fun hd => ?_⟩
  · have hfuture : startLate T N = false := by
      rw [Bool.eq_false_iff, ne_eq, startLate_iff]
      omega
    exact ⟨by rw [hfuture]; exact if_neg (by decide), exec_row_accepted (k := .chStart) (by decide) h
      (hbody.trans (congrArg accept (reportLate_future hfuture))) rfl ⟨s.link, rfl⟩⟩
  · have hpast : startLate T N = true := (startLate_iff T N).mpr hd
    exact ⟨by rw [hpast]; exact if_pos rfl, exec_row_accepted (k := .chStart) (by decide) h
      (hbody.trans (congrArg accept (reportLate_late hpast))) rfl ⟨s.link, rfl⟩⟩

/-- Settles O22: the named channels are stopped side by side; the buffer is emptied. -/
theorem stopAndFlush : Obligations.StopAndFlush := by
  refine ⟨fun m s h hlen => ?stop, fun m s h hlen => ?flush⟩
  case stop =>
    have hbody : ∀ t, bodyOf .chStop m 0 t =
        chStop (maskChannels (msgWord m 0)) (flagOf (msgWord m 0) 8) t := fun t => if_neg (by simp [hlen])
    refine ⟨fun hnone => ?_, fun hsome => ?_⟩
    · exact exec_row_refused (k := .chStop) (by decide) h rfl ((hbody _).trans (chStop_badVal hnone))
    · refine ⟨_, exec_row_accepted (k := .chStop) (by decide) h ((hbody _).trans (chStop_accepted hsome)) rfl
        ⟨s.link, rfl⟩, fun n => ?_⟩
      rw [quad_get_mapOn]
      simp only [mem_maskChannels]
      by_cases hflush : flagOf (msgWord m 0) 8 = true <;> simp only [hflush] <;> rfl
  case flush =>
    have hbody : ∀ t, bodyOf .streamFlush m 0 t = streamFlush (chOf m.channel) t :=
      fun t => if_neg (by simp [hlen])
    exact exec_row_accepted (k := .streamFlush) (by decide) h (hbody _) rfl ⟨s.link, rfl⟩

end Sys2Proof.Proofs
end

section
/-! PROOF. Layouts: step records and samples (R174, R177), the words of CH-STATUS (R178), of event records and of the
values about cues (R179); CH-MASK (R132), CH-STATUS (R65) and EVENT-READ (R182). -/

namespace Sys2Proof.Machine

/-! ### Fields put side by side -/

theorem bitsOf_zero (hi lo : Nat) : bitsOf 0 hi lo = 0 := by
  simp [bitsOf]

theorem int16_toNat_lt (v : Int) : (BitVec.ofInt 16 v).toNat < 2 ^ 16 := BitVec.isLt _

/-- A signed half word is read back from where it was put. -/
theorem signedOf_eq {w : Word} {hi lo : Nat} {v : Int} (hw : hi + 1 - lo = 16)
    (h : bitsOf w hi lo = (BitVec.ofInt 16 v).toNat) (hlo : -32768 ≤ v) (hhi : v ≤ 32767) :
    signedOf w hi lo = v := by
  have hbits : (w.extractLsb' lo (hi + 1 - lo)).toNat = (BitVec.ofInt 16 v).toNat := h
  rw [signedOf, BitVec.toInt_eq_toNat_cond, hbits, hw, ← BitVec.toInt_eq_toNat_cond, BitVec.toInt_ofInt]
  simp only [Int.bmod]
  omega

/-! ### Step records (R177) -/

/-- The ranges of R21 to R25, one field at a time. -/
theorem inRange_iff {r : StepRecord} : r.inRange = true ↔
    sourceOk r = true ∧ 1 ≤ r.rate ∧ r.rate ≤ 262144 ∧ -32768 ≤ r.gain ∧ r.gain ≤ 32767 ∧
      -32768 ≤ r.offset ∧ r.offset ≤ 32767 ∧ cueFieldOk r.wait = true ∧ cueFieldOk r.leave = true ∧
      cueFieldOk r.emit = true ∧ (r.wait.isSome && r.wait == r.leave) = false ∧ markerOk r.marker = true ∧
      jumpOk r.jump = true := by
  simp only [StepRecord.inRange, Bool.and_eq_true, decide_eq_true_eq, and_assoc, Bool.not_eq_true']

/-- What the source's range asks of a record, for either source (R22). -/
theorem sourceOk_iff {r : StepRecord} : sourceOk r = true ↔
    (∃ seg, r.source = .memory seg ∧ seg ≤ 255 ∧ r.length = none ∧ r.repeats ≤ 65535) ∨
      (∃ n, r.source = .stream ∧ r.length = some n ∧ 1 ≤ n ∧ n ≤ 16777215 ∧ r.repeats = 1 ∧
        r.rate = 65536 ∧ r.leave = none) := by
  unfold sourceOk
  cases hsrc : r.source with
  | memory seg => simp [and_assoc]
  | stream =>
    cases hlen : r.length with
    | none => simp
    | some n => simp [and_assoc]

theorem cueFieldOk_getD {o : Option Nat} (h : cueFieldOk o = true) : o.getD 0 < 2 ^ 6 := by
  cases o with
  | none => decide
  | some c =>
    simp only [cueFieldOk, Bool.and_eq_true, decide_eq_true_eq] at h
    simp only [Option.getD_some]
    omega

/-- A cue field is a presence bit and six bits. -/
theorem cueFieldWord_eq (pbit lo : Nat) (o : Option Nat) :
    cueFieldWord pbit lo o = putFlag pbit o.isSome ||| put lo (o.getD 0) := by
  cases o with
  | none => simp [cueFieldWord, putFlag, put]
  | some c => rfl

/-- An optional field is read back from its presence bit and its value. -/
theorem presentIf_of_eq {α : Type} {o : Option α} {p : Bool} {a b : α} (hp : p = o.isSome)
    (ha : a = o.getD b) : presentIf p a = o := by
  subst hp ha
  cases o <;> rfl

theorem stepRecord_eq_of_fields {a b : StepRecord} (hsource : a.source = b.source)
    (hrepeats : a.repeats = b.repeats) (hlength : a.length = b.length) (hrate : a.rate = b.rate)
    (hgain : a.gain = b.gain) (hoffset : a.offset = b.offset) (hwait : a.wait = b.wait)
    (hleave : a.leave = b.leave) (hemit : a.emit = b.emit) (hmarker : a.marker = b.marker)
    (hjump : a.jump = b.jump) : a = b := by
  cases a; cases b
  simp_all

section Record

variable {r : StepRecord} (h : r.inRange = true)
include h

theorem readRecord_head : (readRecord (recordWords r)).source = r.source ∧
    (readRecord (recordWords r)).repeats = r.repeats ∧ (readRecord (recordWords r)).length = r.length := by
  obtain ⟨hsource, -⟩ := inRange_iff.mp h
  simp only [readRecord, recordWords, List.getD_cons_zero, List.getD_cons_succ]
  obtain ⟨seg, hsrc, hseg, hlen, hrep⟩ | ⟨n, hsrc, hlen, -, hn, hrep, -⟩ := sourceOk_iff.mp hsource
  · simp only [hsrc, hlen, Option.isSome_none, Option.getD_none]
    refine ⟨?_, ?_, ?_⟩
    · rw [flagOf_eq_of_bitsOf (b := false), if_neg (by decide)]
      · refine congrArg _ ?_
        simp (disch := omega) only [bitsOf_or, bitsOf_put_same, bitsOf_put_below, bitsOf_putFlag_outside,
          Nat.or_zero]
      · simp (disch := omega) only [bitsOf_or, bitsOf_put_below, bitsOf_putFlag_outside, Nat.or_zero,
          Bool.toNat_false]
    · simp (disch := omega) only [bitsOf_or, bitsOf_put_same, bitsOf_put_above, bitsOf_putFlag_outside,
        Nat.zero_or]
    · rw [flagOf_eq_of_bitsOf (b := false)]
      · rfl
      · simp (disch := omega) only [bitsOf_or, bitsOf_put_below, bitsOf_putFlag_same, Nat.or_zero]
        rfl
  · simp only [hsrc, hlen, hrep, Option.isSome_some, Option.getD_some]
    refine ⟨?_, ?_, ?_⟩
    · rw [flagOf_eq_of_bitsOf (b := true), if_pos rfl]
      simp (disch := omega) only [bitsOf_or, bitsOf_put_below, bitsOf_putFlag_same, bitsOf_putFlag_outside,
        Nat.or_zero]
    · simp (disch := omega) only [bitsOf_or, bitsOf_put_same, bitsOf_putFlag_outside, Nat.zero_or]
    · refine presentIf_of_eq (b := 0) (flagOf_eq_of_bitsOf ?_) (bitsOf_put_same (by decide) (by omega))
      simp (disch := omega) only [bitsOf_or, bitsOf_put_below, bitsOf_putFlag_same, bitsOf_putFlag_outside,
        Nat.or_zero, Nat.zero_or]
      rfl

theorem readRecord_numbers : (readRecord (recordWords r)).rate = r.rate ∧
    (readRecord (recordWords r)).gain = r.gain ∧ (readRecord (recordWords r)).offset = r.offset := by
  obtain ⟨-, -, hrate, hglo, hghi, holo, hohi, -⟩ := inRange_iff.mp h
  have hg := int16_toNat_lt r.gain
  have ho := int16_toNat_lt r.offset
  simp only [readRecord, recordWords, List.getD_cons_zero, List.getD_cons_succ]
  refine ⟨bitsOf_put_same (by decide) (by omega), signedOf_eq rfl ?_ hglo hghi, signedOf_eq rfl ?_ holo hohi⟩
  all_goals
    simp (disch := omega) only [putSigned, bitsOf_or, bitsOf_put_same, bitsOf_put_below, bitsOf_put_above,
      Nat.or_zero, Nat.zero_or]

theorem readRecord_cues : (readRecord (recordWords r)).wait = r.wait ∧
    (readRecord (recordWords r)).leave = r.leave ∧ (readRecord (recordWords r)).emit = r.emit := by
  obtain ⟨-, -, -, -, -, -, -, hwait, hleave, hemit, -⟩ := inRange_iff.mp h
  have hw := cueFieldOk_getD hwait
  have hl := cueFieldOk_getD hleave
  have he := cueFieldOk_getD hemit
  simp only [readRecord, recordWords, List.getD_cons_zero, List.getD_cons_succ, cueFieldWord_eq]
  refine ⟨presentIf_of_eq (b := 0) (flagOf_eq_of_bitsOf ?_) ?_,
    presentIf_of_eq (b := 0) (flagOf_eq_of_bitsOf ?_) ?_, presentIf_of_eq (b := 0) (flagOf_eq_of_bitsOf ?_) ?_⟩
  all_goals
    simp (disch := omega) only [bitsOf_or, bitsOf_put_same, bitsOf_put_below, bitsOf_put_above,
      bitsOf_putFlag_same, bitsOf_putFlag_outside, Nat.or_zero, Nat.zero_or]

theorem readRecord_marker : (readRecord (recordWords r)).marker = r.marker := by
  obtain ⟨-, -, -, -, -, -, -, -, -, -, -, hmarker, -⟩ := inRange_iff.mp h
  simp only [readRecord, recordWords, List.getD_cons_zero, List.getD_cons_succ]
  cases hm : r.marker with
  | none =>
    rw [flagOf_eq_of_bitsOf (b := false) (bitsOf_zero 31 31)]
    rfl
  | some k =>
    have hwidth : k.width ≤ 65535 := by
      simp only [hm, markerOk, Bool.and_eq_true, decide_eq_true_eq] at hmarker
      exact hmarker.2
    refine presentIf_of_eq (b := k) (flagOf_eq_of_bitsOf ?_)
      (congrArg₂ (fun f w => f w) (congrArg₂ Marker.mk (flagOf_eq_of_bitsOf ?_) (flagOf_eq_of_bitsOf ?_)) ?_)
    all_goals
      simp (disch := omega) only [bitsOf_or, bitsOf_put_same, bitsOf_put_below,
        bitsOf_putFlag_same, bitsOf_putFlag_outside, Nat.or_zero, Nat.zero_or]
    rfl

theorem readRecord_jump : (readRecord (recordWords r)).jump = r.jump := by
  obtain ⟨-, -, -, -, -, -, -, -, -, -, -, -, hjump⟩ := inRange_iff.mp h
  simp only [readRecord, recordWords, List.getD_cons_zero, List.getD_cons_succ]
  cases hj : r.jump with
  | none =>
    rw [flagOf_eq_of_bitsOf (b := false) (bitsOf_zero 31 31)]
    rfl
  | some j =>
    have hrange : j.target ≤ 63 ∧ j.count ≤ 65535 := by
      simpa only [hj, jumpOk, Bool.and_eq_true, decide_eq_true_eq] using hjump
    refine presentIf_of_eq (b := j) (flagOf_eq_of_bitsOf ?_) (congrArg₂ Jump.mk ?_ ?_)
    all_goals
      simp (disch := omega) only [bitsOf_or, bitsOf_put_same, bitsOf_put_below, bitsOf_put_above,
        bitsOf_putFlag_same, bitsOf_putFlag_outside, Nat.or_zero, Nat.zero_or]
    rfl

theorem readRecord_recordWords : readRecord (recordWords r) = r := by
  obtain ⟨hsource, hrepeats, hlength⟩ := readRecord_head h
  obtain ⟨hrate, hgain, hoffset⟩ := readRecord_numbers h
  obtain ⟨hwait, hleave, hemit⟩ := readRecord_cues h
  exact stepRecord_eq_of_fields hsource hrepeats hlength hrate hgain hoffset hwait hleave hemit
    (readRecord_marker h) (readRecord_jump h)

end Record

/-! ### Packed samples (R174) -/

theorem flatMap_wordSamples_length (ws : List Word) : (ws.flatMap wordSamples).length = 2 * ws.length := by
  induction ws with
  | nil => rfl
  | cons w ws ih =>
    rw [List.flatMap_cons, List.length_append, ih]
    simp only [wordSamples, List.length_cons, List.length_nil]
    omega

/-- Sample `i` stands in word `i / 2`, upper half first. -/
theorem flatMap_wordSamples_getElem? (ws : List Word) {i : Nat} (hi : i < 2 * ws.length) :
    (ws.flatMap wordSamples)[i]? =
      some (if i % 2 = 0 then (ws.getD (i / 2) 0).extractLsb' 16 16
        else (ws.getD (i / 2) 0).extractLsb' 0 16) := by
  induction ws generalizing i with
  | nil => simp at hi
  | cons w ws ih =>
    have hcons : (w :: ws).flatMap wordSamples =
        w.extractLsb' 16 16 :: w.extractLsb' 0 16 :: ws.flatMap wordSamples := rfl
    rw [hcons]
    match i with
    | 0 => rfl
    | 1 => rfl
    | i + 2 =>
      have hrest : i < 2 * ws.length := by simp only [List.length_cons] at hi; omega
      rw [List.getElem?_cons_succ, List.getElem?_cons_succ, ih hrest,
        show (i + 2) % 2 = i % 2 by omega, show (i + 2) / 2 = i / 2 + 1 by omega, List.getD_cons_succ]

theorem samplesOf_length (half : Bool) (ws : List Word) :
    (samplesOf half ws).length = 2 * ws.length - half.toNat := by
  cases half with
  | false => exact flatMap_wordSamples_length ws
  | true =>
    show (ws.flatMap wordSamples).dropLast.length = _
    rw [List.length_dropLast, flatMap_wordSamples_length]
    rfl

theorem samplesOf_getElem? {half : Bool} {ws : List Word} {i : Nat} (hi : i < (samplesOf half ws).length) :
    (samplesOf half ws)[i]? = (ws.flatMap wordSamples)[i]? := by
  cases half with
  | false => rfl
  | true =>
    have hdrop : i < (ws.flatMap wordSamples).dropLast.length := hi
    show (ws.flatMap wordSamples).dropLast[i]? = _
    rw [List.getElem?_dropLast, if_pos (by simpa using hdrop)]

end Sys2Proof.Machine

namespace Sys2Proof.Proofs

open Sys2Proof.Machine

/-- Settles O8: each field of a record and each sample is read back from where it was put. -/
theorem recordsAndSamplesCoded : Obligations.RecordsAndSamplesCoded := by
  refine ⟨fun r h => ⟨rfl, readRecord_recordWords h⟩, fun half ws => ⟨samplesOf_length half ws, fun i hi => ?_⟩⟩
  rw [samplesOf_getElem? hi]
  rw [samplesOf_length] at hi
  exact flatMap_wordSamples_getElem? ws (by omega)

end Sys2Proof.Proofs
end

section
/-! PROOF. The words of CH-STATUS (R178), of event records and of the values about cues (R179); CH-MASK (R132),
CH-STATUS (R65) and EVENT-READ (R182). -/

namespace Sys2Proof.Machine

/-! ### Cue sets (R132, R134, R178) -/

theorem cueIn_and (a b : CueSet) (q : Nat) : cueIn (a &&& b) q = (cueIn a q && cueIn b q) :=
  BitVec.getLsbD_and

theorem cueIn_allCues (q : Nat) : cueIn allCues q = decide (1 ≤ q ∧ q ≤ 63) := by
  simp only [cueIn, allCues, BitVec.getLsbD_not, BitVec.getLsbD_one]
  rw [Bool.eq_iff_iff]
  simp only [Bool.and_eq_true, Bool.not_eq_true', Bool.and_eq_false_iff, decide_eq_true_eq, decide_eq_false_iff_not]
  omega

theorem cueIn_cueSetOf (hi lo : Word) (q : Nat) : cueIn (cueSetOf hi lo) q =
    (decide (1 ≤ q ∧ q ≤ 63) && (if q < 32 then flagOf lo q else flagOf hi (q - 32))) := by
  rw [cueSetOf, cueIn_and, cueIn_allCues, Bool.and_comm]
  have happend : cueIn (hi ++ lo : BitVec 64) q = if q < 32 then flagOf lo q else flagOf hi (q - 32) := by
    rw [cueIn, flagOf, flagOf, ← BitVec.getLsbD_append]
  rw [happend]

theorem flagOf_extractLsb' (c : CueSet) {lo q : Nat} (h : q < 32) :
    flagOf (c.extractLsb' lo 32) q = cueIn c (lo + q) := by
  simp [flagOf, cueIn, h]

/-! ### The words of CH-STATUS (R178) -/

/-- The upper sixteen bits of a counter value, in the lower half of a word. -/
theorem counter_upper (t : Counter) : (t.extractLsb' 32 16).setWidth 32 = put 0 (t.toNat / 2 ^ 32) := by
  apply BitVec.eq_of_toNat_eq
  have : t.toNat / 2 ^ 32 < 2 ^ 16 := by omega
  simp [put, Nat.shiftRight_eq_div_pow]
  omega

theorem counter_lower (t : Counter) : (t.extractLsb' 0 32).toNat = t.toNat % 2 ^ 32 := by
  simp

theorem playback_num_lt (p : Playback) : p.num < 2 ^ 4 := by cases p <;> decide
theorem protState_num_lt (p : ProtState) : p.num < 2 ^ 4 := by cases p <;> decide
theorem derateCause_num_lt (p : DerateCause) : p.num < 2 ^ 4 := by cases p <;> decide
theorem phase_num_lt (p : Phase) : p.num < 2 ^ 4 := by cases p <;> decide

/-- The head word of a status. -/
def statusHead (c : Channel) (p : Protection) : Word :=
  put 28 c.playback.num
    ||| put 24 (if c.playback = .running then c.run.phase.num else 0)
    ||| put 20 p.state.num ||| put 16 p.cause.num
    ||| putFlag 9 c.clip ||| putFlag 8 c.limit ||| putFlag 7 c.run.leave ||| put 0 c.list.length

theorem statusHead_fields {c : Channel} {p : Protection} (hlen : c.list.length ≤ 64) :
    bitsOf (statusHead c p) 31 28 = c.playback.num ∧
    bitsOf (statusHead c p) 27 24 = (if c.playback = .running then c.run.phase.num else 0) ∧
    bitsOf (statusHead c p) 23 20 = p.state.num ∧ bitsOf (statusHead c p) 19 16 = p.cause.num ∧
    bitsOf (statusHead c p) 15 10 = 0 ∧ flagOf (statusHead c p) 9 = c.clip ∧
    flagOf (statusHead c p) 8 = c.limit ∧ flagOf (statusHead c p) 7 = c.run.leave ∧
    bitsOf (statusHead c p) 6 0 = c.list.length := by
  have h1 := playback_num_lt c.playback
  have h2 := protState_num_lt p.state
  have h3 := derateCause_num_lt p.cause
  have h4 : (if c.playback = .running then c.run.phase.num else 0) < 2 ^ 4 := by
    split
    · exact phase_num_lt _
    · decide
  generalize hx : (if c.playback = .running then c.run.phase.num else 0) = x at h4
  simp only [statusHead, hx]
  refine ⟨?_, ?_, ?_, ?_, ?_, flagOf_eq_of_bitsOf ?_, flagOf_eq_of_bitsOf ?_, flagOf_eq_of_bitsOf ?_, ?_⟩
  all_goals
    simp (disch := omega) only [bitsOf_or, bitsOf_put_same, bitsOf_put_below, bitsOf_put_above,
      bitsOf_putFlag_same, bitsOf_putFlag_outside, Nat.or_zero, Nat.zero_or]

theorem put_zero_toNat_of_lt {v : Nat} (h : v < 2 ^ 32) : (put 0 v).toNat = v := by
  simp only [put, BitVec.toNat_shiftLeft, BitVec.toNat_ofNat, Nat.shiftLeft_zero]
  omega

/-- Two half words side by side. -/
theorem bitsOf_halves {u v : Nat} (hu : u < 2 ^ 16) (hv : v < 2 ^ 16) :
    bitsOf (put 16 u ||| put 0 v) 31 16 = u ∧ bitsOf (put 16 u ||| put 0 v) 15 0 = v := by
  constructor <;>
    simp (disch := omega) only [bitsOf_or, bitsOf_put_same, bitsOf_put_below, bitsOf_put_above,
      Nat.or_zero, Nat.zero_or]

theorem startWords_cue {q : Nat} (h : q ≤ 63) :
    bitsOf (put 30 1 ||| put 24 q) 31 30 = 1 ∧ bitsOf (put 30 1 ||| put 24 q) 29 24 = q ∧
      bitsOf (put 30 1 ||| put 24 q) 23 0 = 0 := by
  refine ⟨?_, ?_, ?_⟩ <;>
    simp (disch := omega) only [bitsOf_or, bitsOf_put_same, bitsOf_put_below, bitsOf_put_above,
      Nat.or_zero, Nat.zero_or]

theorem startWords_time (t : Counter) :
    bitsOf (put 30 2 ||| (t.extractLsb' 32 16).setWidth 32) 31 30 = 2 ∧
      bitsOf (put 30 2 ||| (t.extractLsb' 32 16).setWidth 32) 29 16 = 0 ∧
      bitsOf (put 30 2 ||| (t.extractLsb' 32 16).setWidth 32) 15 0 * 2 ^ 32 +
        (t.extractLsb' 0 32).toNat = t.toNat := by
  have hlt : t.toNat / 2 ^ 32 < 2 ^ 16 := by omega
  rw [counter_upper, counter_lower]
  refine ⟨?_, ?_, ?_⟩
  · simp (disch := omega) only [bitsOf_or, bitsOf_put_same, bitsOf_put_below, Nat.or_zero]
  · simp (disch := omega) only [bitsOf_or, bitsOf_put_above, bitsOf_put_below, Nat.or_zero]
  · simp (disch := omega) only [bitsOf_or, bitsOf_put_above, bitsOf_put_same, Nat.zero_or]
    omega

/-! ### Event records and the values about cues (R179) -/

theorem eventKind_code_lt (k : EventKind) : k.code < 2 ^ 8 := by cases k <;> decide
theorem cueSource_num_lt (src : CueSource) : src.num < 2 ^ 2 := by
  cases src with
  | cueSend => decide
  | stepEmit n k => exact (by decide : 1 < 2 ^ 2)
  | trigger t => cases t <;> decide

theorem cueSourceValue_fields {cue : Nat} (src : CueSource) (h : cue ≤ 63) :
    bitsOf (cueSourceValue cue src) 5 0 = cue ∧ bitsOf (cueSourceValue cue src) 7 6 = 0 ∧
      bitsOf (cueSourceValue cue src) 31 10 = 0 ∧ bitsOf (cueSourceValue cue src) 9 8 = src.num := by
  have hsrc := cueSource_num_lt src
  refine ⟨?_, ?_, ?_, ?_⟩ <;>
    simp (disch := omega) only [cueSourceValue, bitsOf_or, bitsOf_put_same, bitsOf_put_below,
      bitsOf_put_above, Nat.or_zero, Nat.zero_or]

theorem overrun_value_fields {cue : Nat} (h : cue ≤ 63) :
    bitsOf (CueErrorReason.overrun cue).value 7 0 = 4 ∧ bitsOf (CueErrorReason.overrun cue).value 13 8 = cue ∧
      bitsOf (CueErrorReason.overrun cue).value 31 14 = 0 := by
  have hvalue : (CueErrorReason.overrun cue).value = put 8 cue ||| put 0 4 := by
    simp [CueErrorReason.value, put]
  rw [hvalue]
  refine ⟨?_, ?_, ?_⟩ <;>
    simp (disch := omega) only [bitsOf_or, bitsOf_put_same, bitsOf_put_below,
      bitsOf_put_above, Nat.or_zero, Nat.zero_or]

/-- The CHANNEL field of a record. -/
def eventChannel (e : Event) : Nat := match e.channel with | some n => chNum n | none => 0

theorem eventChannel_lt (e : Event) : eventChannel e < 2 ^ 2 := by
  unfold eventChannel
  split
  · next n _ => cases n <;> decide
  · decide

/-- The head word of a record. -/
def eventHead (e : Event) : Word :=
  put 24 e.kind.code ||| putFlag 23 e.channel.isSome ||| putFlag 22 e.step.isSome
    ||| putFlag 21 e.value.isSome ||| put 16 (eventChannel e) ||| put 8 (e.step.getD 0)

theorem eventWords_eq (e : Event) : eventWords e = [eventHead e, e.value.getD 0, e.stamp] := rfl

theorem eventHead_fields {e : Event} (hstep : ∀ k, e.step = some k → k ≤ 63) :
    bitsOf (eventHead e) 31 24 = e.kind.code ∧ flagOf (eventHead e) 23 = e.channel.isSome ∧
      flagOf (eventHead e) 22 = e.step.isSome ∧ flagOf (eventHead e) 21 = e.value.isSome ∧
      bitsOf (eventHead e) 20 18 = 0 ∧ bitsOf (eventHead e) 15 14 = 0 ∧ bitsOf (eventHead e) 7 0 = 0 ∧
      bitsOf (eventHead e) 17 16 = eventChannel e ∧ bitsOf (eventHead e) 13 8 = e.step.getD 0 := by
  have h1 := eventKind_code_lt e.kind
  have h2 := eventChannel_lt e
  have h3 : e.step.getD 0 < 2 ^ 6 := by
    cases hs : e.step with
    | none => decide
    | some k =>
      have := hstep k hs
      simp only [Option.getD_some]
      omega
  simp only [eventHead]
  refine ⟨?_, flagOf_eq_of_bitsOf ?_, flagOf_eq_of_bitsOf ?_, flagOf_eq_of_bitsOf ?_, ?_, ?_, ?_, ?_, ?_⟩
  all_goals
    simp (disch := omega) only [bitsOf_or, bitsOf_put_same, bitsOf_put_below, bitsOf_put_above,
      bitsOf_putFlag_same, bitsOf_putFlag_outside, Nat.or_zero, Nat.zero_or]

/-! ### EVENT-READ (R182) -/

theorem eventRead_badVal {most : Nat} {s : State} (h : most < 1 ∨ 32 < most) :
    eventRead most s = refuse s .badVal := if_pos (by simpa using h)

theorem readEvents_eq (most : Nat) (mode : AttnMode) (q : EventQueue) :
    readEvents most mode q =
      { records := q.records.drop (min most q.records.length), lost := false
        attn := if mode = .level then decide (min most q.records.length < q.records.length) else q.attn
        pulse := q.pulse } := by
  have hdrop : q.records.drop most = q.records.drop (min most q.records.length) := by
    by_cases h : most ≤ q.records.length
    · rw [min_eq_left h]
    · rw [min_eq_right (by omega), List.drop_length, List.drop_of_length_le (by omega)]
  have hattn : (!(q.records.drop most).isEmpty) = decide (min most q.records.length < q.records.length) := by
    rw [Bool.eq_iff_iff, Bool.not_eq_true', ← Bool.not_eq_true, List.isEmpty_iff, List.drop_eq_nil_iff,
      decide_eq_true_eq]
    omega
  simp only [readEvents, hattn]
  rw [hdrop]

theorem eventRead_accepted {most : Nat} {s : State} (hlo : 1 ≤ most) (hhi : most ≤ 32) :
    eventRead most s = accept (s.setEvents (readEvents most s.dev.attnMode s.events))
      ((putFlag 31 s.events.lost ||| put 0 (min most s.events.records.length)) ::
        (s.events.records.take (min most s.events.records.length)).flatMap eventWords) := by
  rw [eventRead, if_neg (by simp; omega)]
  simp only [List.length_take]
  by_cases h : most ≤ s.events.records.length
  · rw [min_eq_left h]
  · rw [min_eq_right (by omega), List.take_length, List.take_of_length_le (by omega)]

end Sys2Proof.Machine

namespace Sys2Proof.Proofs

open Sys2Proof.Machine

/-- Settles O19: the members of the new sets cue by cue; the thirteen words field by field. -/
theorem cueMaskAndStatus : Obligations.CueMaskAndStatus := by
  refine ⟨fun m s h hlen => ?mask, fun c p hlist hstep hi hf hrep hmark hlo hhi hcons hfifo hdebt hcue => ?words,
    fun m s h hlen => ?status⟩
  case mask =>
    have hbody : ∀ t, bodyOf .chMask m 0 t =
        chMask (chOf m.channel) (cueSetOf (msgWord m 0) (msgWord m 1)) t := fun t => if_neg (by simp [hlen])
    exact ⟨_, _, exec_row_accepted (k := .chMask) (by decide) h (hbody _) rfl ⟨s.link, rfl⟩,
      fun cue => ⟨cueIn_cueSetOf _ _ _, cueIn_and _ _ _⟩⟩
  case status =>
    have hbody : ∀ t, bodyOf .chStatus m 0 t = chStatus (chOf m.channel) t := fun t => if_neg (by simp [hlen])
    exact exec_row_accepted (k := .chStatus) (by decide) h (hbody _) rfl ⟨s.link, rfl⟩
  case words =>
    have hhead := statusHead_fields (p := p) hlist
    obtain ⟨h0, h1, h2, h3, h4, h5, h6, h7, h8⟩ := hhead
    obtain ⟨v1, v2, hstart, hcase⟩ : ∃ v1 v2, startWords c.run.start = [v1, v2] ∧
        (match c.run.start with
        | .none => v1 = 0 ∧ v2 = 0
        | .cue q => bitsOf v1 31 30 = 1 ∧ bitsOf v1 29 24 = q ∧ bitsOf v1 23 0 = 0 ∧ v2 = 0
        | .time T => bitsOf v1 31 30 = 2 ∧ bitsOf v1 29 16 = 0 ∧
          bitsOf v1 15 0 * 2 ^ 32 + v2.toNat = T.toNat) := by
      cases hs : c.run.start with
      | none => exact ⟨0, 0, rfl, rfl, rfl⟩
      | cue q =>
        obtain ⟨ha, hb, hc⟩ := startWords_cue (hcue q hs)
        exact ⟨_, _, rfl, ha, hb, hc, rfl⟩
      | time T => exact ⟨_, _, rfl, startWords_time T⟩
    have hwords : statusWords c p = statusHead c p :: startWords c.run.start
        ++ [ put 24 c.run.step ||| put 0 c.run.i, put 16 c.run.f ||| put 0 c.run.repeatsLeft,
             put 16 c.run.markerLeft ||| putSigned 0 c.hold, put 0 c.run.consumed,
             put 0 c.stream.fifo.length, put 0 c.stream.debt ]
        ++ cueSetWords c.pendingCues ++ cueSetWords c.mask := rfl
    rw [hstart] at hwords
    have hhold := int16_toNat_lt c.hold
    refine ⟨_, _, _, _, _, _, _, _, _, _, _, _, _, hwords, ?_, ?_, ?_, ?_, h4, h5, h6, h7, h8, hcase, ?_, ?_,
      (bitsOf_halves hf hrep).1, (bitsOf_halves hf hrep).2, (bitsOf_halves hmark hhold).1,
      signedOf_eq rfl (bitsOf_halves hmark hhold).2 hlo hhi, put_zero_toNat_of_lt (by omega),
      put_zero_toNat_of_lt (by omega), put_zero_toNat_of_lt (by omega), fun q hq => ⟨?_, ?_, ?_, ?_⟩⟩
    · rw [h0]; cases c.playback <;> rfl
    · rw [h1]; cases c.run.phase <;> rfl
    · rw [h2]; cases p.state <;> rfl
    · rw [h3]; cases p.cause <;> rfl
    · simp (disch := omega) only [bitsOf_or, bitsOf_put_same, bitsOf_put_below, Nat.or_zero]
    · simp (disch := omega) only [bitsOf_or, bitsOf_put_same, bitsOf_put_above, Nat.zero_or]
    · rw [flagOf_extractLsb' _ hq, Nat.zero_add]
    · exact flagOf_extractLsb' _ hq
    · rw [flagOf_extractLsb' _ hq, Nat.zero_add]
    · exact flagOf_extractLsb' _ hq

/-- Settles O36: the words of records and of values about cues field by field; the oldest records leave. -/
theorem eventReadTakesTheOldest : Obligations.EventReadTakesTheOldest := by
  refine ⟨fun cue src h => ?value, rfl, rfl, rfl, fun cue h => overrun_value_fields h, fun e hstep => ?words,
    fun m s h hlen => ?read⟩
  case value =>
    obtain ⟨h0, h1, h2, h3⟩ := cueSourceValue_fields src h
    refine ⟨h0, h1, h2, h3.trans ?_⟩
    cases src with
    | trigger t => cases t <;> rfl
    | _ => rfl
  case words =>
    obtain ⟨h0, h1, h2, h3, h4, h5, h6, h7, h8⟩ := eventHead_fields hstep
    refine ⟨_, _, _, eventWords_eq e, h0.trans ?_, h1, h2, h3, h4, h5, h6, h7.trans ?_, h8, rfl, rfl⟩
    · cases e.kind <;> rfl
    · unfold eventChannel
      cases e.channel with
      | none => rfl
      | some n => cases n <;> rfl
  case read =>
    have hbody : ∀ t, bodyOf .eventRead m 0 t = eventRead (bitsOf (msgWord m 0) 7 0) t := fun t =>
      if_neg (by simp [hlen])
    refine ⟨fun hbad => ?_, fun hlo hhi => ?_⟩
    · exact exec_row_refused (k := .eventRead) (by decide) h rfl ((hbody _).trans (eventRead_badVal hbad))
    · rw [← readEvents_eq]
      exact exec_row_accepted (k := .eventRead) (by decide) h ((hbody _).trans (eventRead_accepted hlo hhi)) rfl
        ⟨s.link, rfl⟩

end Sys2Proof.Proofs
end

section
/-! PROOF. The frame coding of the cue line (R104, R113), and stages 4 to 6 of the sample path (R70 to R72). -/

namespace Sys2Proof.Machine

/-! ### Cue frames (R104, R113) -/

@[simp] theorem frameBits_length (cue : Nat) : (frameBits cue).length = 7 := rfl

/-- Six bits and their parity bit have an even number of ones. -/
theorem onesOf_parity_even : ∀ a b c d e f : Bool,
    onesOf ([a, b, c, d, e, f] ++ [onesOf [a, b, c, d, e, f] % 2 == 1]) % 2 = 0 := by decide

theorem onesOf_frameBits (cue : Nat) : onesOf (frameBits cue) % 2 = 0 := onesOf_parity_even ..

/-- Seven bits of even parity are those of the number the first six form. -/
theorem frameBits_cueOfBits : ∀ a b c d e f g : Bool, onesOf [a, b, c, d, e, f, g] % 2 = 0 →
    cueOfBits [a, b, c, d, e, f] ≤ 63 ∧
      [a, b, c, d, e, f, g] = frameBits (cueOfBits [a, b, c, d, e, f]) := by decide

theorem cueOfBits_frameBits : ∀ cue < 64, cueOfBits ((frameBits cue).take 6) = cue := by decide

theorem judgeFrame_valid_iff (bits : List Bool) (cue : Nat) :
    judgeFrame bits = .valid cue ↔ cue ≤ 63 ∧ bits = frameBits cue := by
  constructor
  · intro h
    unfold judgeFrame at h
    split at h
    · next hlen =>
      split at h
      · next heven =>
        cases h
        match bits, hlen with
        | [a, b, c, d, e, f, g], _ => exact frameBits_cueOfBits a b c d e f g heven
      · cases h
    · cases h
  · rintro ⟨hcue, rfl⟩
    rw [judgeFrame, if_pos (frameBits_length cue), if_pos (onesOf_frameBits cue),
      cueOfBits_frameBits cue (by omega)]

/-! ### Saturation, derating and the window (R70 to R72) -/

theorem saturate_eq (u : Int) : saturate u = max (-32768) (min u 32767) := by
  simp only [saturate, clamp]
  omega

theorem clamp_bounds {lo hi : Int} (h : lo ≤ hi) (x : Int) : lo ≤ clamp x lo hi ∧ clamp x lo hi ≤ hi := by
  simp only [clamp]
  omega

theorem clamp_ne_iff (lo hi x : Int) : clamp x lo hi ≠ x ↔ x < lo ∨ hi < x := by
  simp only [clamp]
  omega

theorem clamp_of_mem {lo hi x : Int} (hlo : lo ≤ x) (hhi : x ≤ hi) : clamp x lo hi = x := by
  simp only [clamp]
  omega

/-- A quarter toward zero: its magnitude, and that its sign is not the opposite one. -/
theorem tdiv_four (x : Int) : (x.tdiv 4).natAbs = x.natAbs / 4 ∧ 0 ≤ x.tdiv 4 * x := by
  refine ⟨Int.natAbs_tdiv x 4, ?_⟩
  by_cases h : 0 ≤ x
  · exact mul_nonneg (Int.tdiv_nonneg h (by decide)) h
  · have hneg : x.tdiv 4 = -((-x).tdiv 4) := by rw [Int.neg_tdiv, neg_neg]
    have hpos : 0 ≤ (-x).tdiv 4 := Int.tdiv_nonneg (by omega) (by decide)
    exact mul_nonneg_of_nonpos_of_nonpos (by omega) (by omega)

theorem tdiv_four_bounds {x : Int} (hlo : -32768 ≤ x) (hhi : x ≤ 32767) :
    -8192 ≤ x.tdiv 4 ∧ x.tdiv 4 ≤ 8191 := by
  obtain ⟨habs, hsign⟩ := tdiv_four x
  constructor
  · omega
  · by_contra h
    have h' : 8192 ≤ x.tdiv 4 := by omega
    have : x < 0 ∨ 32768 ≤ x := by omega
    obtain hx | hx := this
    · nlinarith
    · omega

theorem derate_derated (us : Int) : derate .derated us = us.tdiv 4 := if_pos rfl
theorem derate_of_ne {p : ProtState} (h : p ≠ .derated) (us : Int) : derate p us = us := if_neg h

end Sys2Proof.Machine

namespace Sys2Proof.Proofs

open Sys2Proof.Machine

/-- Settles O30: seven bits of even parity, case by case, and the sixty-four frames. -/
theorem cueFrameCoding : Obligations.CueFrameCoding :=
  ⟨judgeFrame_valid_iff, fun cue => ⟨frameBits_length cue, onesOf_frameBits cue, fun i hi => by
    interval_cases i <;> rfl⟩⟩

/-- Settles O53: saturation and the window are clamps; a quarter toward zero keeps the sign. -/
theorem deratingAndWindow : Obligations.DeratingAndWindow := by
  intro v g o lmin lmax p hle x us
  have hus : saturate x.u = us := saturate_eq x.u
  have hd : x.d = derate p us := congrArg (derate p) hus
  have hc := clamp_bounds hle x.d
  refine ⟨hc.1, hc.2, fun hp => hd.trans (derate_of_ne hp us), fun hp => ?derated, ?clips, ?limits,
    fun hp hlo hhi => ?unity⟩
  case derated =>
    rw [hp, derate_derated] at hd
    obtain ⟨hlo, hhi⟩ := tdiv_four_bounds (x := us) (by omega) (by omega)
    rw [hd]
    exact ⟨hlo, hhi, tdiv_four us⟩
  case clips =>
    rw [clips, bne_iff_ne]
    exact clamp_ne_iff _ _ x.u
  case limits =>
    rw [limits, bne_iff_ne]
    exact clamp_ne_iff lmin lmax x.d
  case unity =>
    have hu : applyGain v 16384 + 0 = v := by
      simp only [applyGain]
      omega
    simp only [formSample, hu, saturate, derate_of_ne hp, clamp_of_mem hlo hhi]

end Sys2Proof.Proofs
end

section
/-! PROOF. The Output Protection Unit (R140 to R151), the reports and DEV-CONFIG (R165, R169, R170, R183 to R186). -/

namespace Sys2Proof.Machine

/-! ### Fault inputs (R140 to R145) -/

section Fault

variable {n : Ch} {s : State}

theorem faultAssert_released (h : (s.pr n).asserted = false) :
    faultAssert n s = s.setPr n { s.pr n with asserted := true, qual := .running } := by
  simp [faultAssert, h]

theorem faultAssert_asserted (h : (s.pr n).asserted = true) : faultAssert n s = s := by
  simp [faultAssert, h]

theorem faultQualified_idle (h : (s.pr n).qual ≠ .running) : faultQualified n s = s := if_neg h

theorem faultQualified_running (h : (s.pr n).qual = .running) :
    faultQualified n s = takeQualified n (s.setPr n { s.pr n with qual := .qualified }) := if_pos h

theorem takeQualified_first
    (h : (s.pr n).state = .normal ∨ ((s.pr n).state = .derated ∧ (s.pr n).cause = .temp)) :
    takeQualified n s = firstFailure n s := by
  obtain hst | ⟨hst, hcause⟩ := h
  · simp [takeQualified, hst]
  · simp [takeQualified, hst, hcause]

theorem takeQualified_second (hst : (s.pr n).state = .derated) (hcause : (s.pr n).cause ≠ .temp) :
    takeQualified n s = shutDown n 2#32 s := by
  simp only [takeQualified, hst]

theorem takeQualified_shut (hst : (s.pr n).state = .shut) : takeQualified n s = s := by
  simp [takeQualified, hst]

theorem setPr_setPr (s : State) (n : Ch) (p q : Protection) : (s.setPr n p).setPr n q = s.setPr n q := by
  cases n <;> rfl

/-- A first failure from the record just qualified. -/
theorem firstFailure_setPr (p : Protection) : firstFailure n (s.setPr n p) =
    enterEvent .overload (some n) (s.ch n).runningStep none
      (s.setPr n { p with state := .derated, cause := .fault, escalating := true }) := by
  simp only [firstFailure, pr_setPr_same, setPr_setPr, setPr_ch]

/-- A shutdown from the record just qualified. -/
theorem shutDown_setPr (p : Protection) (reason : Word) : shutDown n reason (s.setPr n p) =
    enterEvent .shutdown (some n) (s.ch n).runningStep (some reason)
      ((s.setPr n { p with state := .shut, escalating := false, enable := false }).setCh n
        (s.ch n).toIdle) := by
  simp only [shutDown, pr_setPr_same, setPr_setPr, setPr_ch]

theorem escalationExpiry_expires
    (h : (s.pr n).escalating = true ∧ (s.pr n).state = .derated ∧ (s.pr n).cause = .fault) :
    escalationExpiry n s = shutDown n 1#32 s := by
  obtain ⟨he, hst, hc⟩ := h
  simp [escalationExpiry, he, hst, hc]

theorem escalationExpiry_other
    (h : (s.pr n).escalating = false ∨ (s.pr n).state ≠ .derated ∨ (s.pr n).cause ≠ .fault) :
    escalationExpiry n s = s := by
  obtain he | hst | hc := h
  · simp [escalationExpiry, he]
  · simp [escalationExpiry, hst]
  · simp [escalationExpiry, hc]

/-! ### CH-RESTORE (R147) -/

theorem chRestore_busy (hst : (s.pr n).state ≠ .normal) (ha : (s.pr n).asserted = true) :
    chRestore n s = refuse s .busy := by
  simp [chRestore, hst, ha]

theorem setPr_pr_self (s : State) (n : Ch) : s.setPr n (s.pr n) = s := by
  cases n <;> rfl

theorem chRestore_normal (hst : (s.pr n).state = .normal) : chRestore n s = accept s := by
  simp [chRestore, restored, hst, setPr_pr_self]

theorem chRestore_released (hst : (s.pr n).state ≠ .normal) (ha : (s.pr n).asserted = false) :
    chRestore n s = accept (s.setPr n
      { s.pr n with state := .normal, cause := .none, escalating := false, enable := true }) := by
  simp [chRestore, restored, hst, ha]

end Fault

/-! ### Die temperature (R150, R151) -/

section Temperature

variable {r : Int} {s : State}

theorem limitReading_of_mem (hlo : -40 ≤ r) (hhi : r ≤ 150) : limitReading r = r := clamp_of_mem hlo hhi

theorem tempTransition_cool_stays (h : s.temp.state = .cool) (hr : r < 110) : tempTransition r s = s := by
  simp only [tempTransition, h]
  exact if_neg (by omega)

theorem tempTransition_cool_warms (h : s.temp.state = .cool) (hr : 110 ≤ r) : tempTransition r s =
    enterEvent .tempWarn none none (some (signedWord r)) (s.setTemp { s.temp with state := .warm }) := by
  simp only [tempTransition, h]
  exact if_pos hr

/-- The state the temperature lock leaves. -/
def lockAll (s : State) : State :=
  let t := s.setTemp { s.temp with state := .lock }
  { t with prot := mapProt lockDerate t.prot }

theorem tempTransition_warm_locks (h : s.temp.state = .warm) (hr : 140 ≤ r) : tempTransition r s =
    enterEvent .tempLock none none (some (signedWord r)) (lockAll s) := by
  simp only [tempTransition, h]
  exact if_pos hr

theorem tempTransition_warm_cools (h : s.temp.state = .warm) (hr : r ≤ 95) : tempTransition r s =
    s.setTemp { s.temp with state := .cool } := by
  simp only [tempTransition, h]
  rw [if_neg (by omega), if_pos hr]

theorem tempTransition_warm_stays (h : s.temp.state = .warm) (hlo : 95 < r) (hhi : r < 140) :
    tempTransition r s = s := by
  simp only [tempTransition, h]
  rw [if_neg (by omega), if_neg (by omega)]

theorem tempTransition_lock_stays (h : s.temp.state = .lock) (hr : 125 < r) : tempTransition r s = s := by
  simp only [tempTransition, h]
  exact if_neg (by omega)

theorem tempTransition_lock_clears (h : s.temp.state = .lock) (hr : r ≤ 125) : tempTransition r s =
    enterEvent .tempClear none none (some (signedWord r)) (s.setTemp { s.temp with state := .warm }) := by
  simp only [tempTransition, h]
  exact if_pos hr

/-- A reading held, before it is compared. -/
def holdReading (r : Int) (s : State) : State := s.setTemp ⟨s.temp.state, r⟩

theorem exec_tempReading (h : Between s) (hlo : -40 ≤ r) (hhi : r ≤ 150) : exec (.tempReading r) s =
    .next (tempTransition r (tempTransition r (holdReading r s))) := by
  rw [exec_action_between h rfl rfl]
  simp only [actionOf, evaluateTemp, limitReading_of_mem hlo hhi]
  rfl

end Temperature

/-! ### Reports and DEV-CONFIG (R165, R170, R183 to R186) -/

section Device

variable {s : State}

theorem identifyWords_eq (d : Device) : identifyWords d =
    [0x2E510424#32, putFlag 11 d.attnsel ||| put 8 d.mksel.toNat ||| 1#32] := rfl

theorem devStatusWords_eq (s : State) : devStatusWords s =
    [ (s.dev.counter >>> 32).setWidth 32, s.dev.counter.setWidth 32,
      putSigned 16 s.temp.reading ||| put 0 s.temp.state.num,
      put 16 s.cue.sendQ.length ||| put 0 s.cue.delivery.length,
      put 0 (s.mem.free.map Region.len).sum,
      putFlag 3 s.dev.attnsel ||| put 0 s.dev.mksel.toNat ] := by
  have hupper : (s.dev.counter.extractLsb' 32 16).setWidth 32 = (s.dev.counter >>> 32).setWidth 32 := by
    apply BitVec.eq_of_toNat_eq
    have := s.dev.counter.isLt
    simp [Nat.shiftRight_eq_div_pow]
    omega
  have hlower : s.dev.counter.extractLsb' 0 32 = s.dev.counter.setWidth 32 := by
    apply BitVec.eq_of_toNat_eq
    simp
  rw [devStatusWords, hupper, hlower, freeCount]

/-- The state an accepted DEV-CONFIG leaves. -/
def configured (divider : Nat) (hp : HalfPeriod) (mode : AttnMode) (align : Nat) (s : State) : State :=
  { s with
    events := switchAttn s.dev.attnMode mode s.events
    dev := { s.dev with
      pendingDivider := pendingAfter divider s.dev
      zeroPassed := zeroPassedAfter s.freeIndex s.dev
      half := hp, attnMode := mode, align := align }
    cue := { s.cue with idleEnough := s.cue.idleEnough && decide (hp = s.dev.half) }
    freeIndex := s.freeIndex + 1 }

variable {divider : Nat} {hp : HalfPeriod} {mode : AttnMode} {align : Nat}

theorem anyCh_active_iff (s : State) : anyCh s.chans Channel.active = true ↔
    ∃ n, (s.ch n).playback = .armed ∨ (s.ch n).playback = .running :=
  (anyCh_iff _ _).trans (exists_congr fun n => active_iff (s.ch n))

theorem devConfig_badVal (h : divider < 1 ∨ 256 < divider) :
    devConfig divider hp mode align s = refuse s .badVal := if_pos (by simpa using h)

theorem devConfig_busy (hlo : 1 ≤ divider) (hhi : divider ≤ 256)
    (hbusy : ∃ n, (s.ch n).playback = .armed ∨ (s.ch n).playback = .running)
    (hdue : divider ≠ dividerDue s.dev) : devConfig divider hp mode align s = refuse s .busy := by
  rw [devConfig, if_neg (by simp; omega), if_pos]
  simpa [(anyCh_active_iff s).mpr hbusy] using hdue

theorem devConfig_accepted (hlo : 1 ≤ divider) (hhi : divider ≤ 256)
    (h : ¬ (∃ n, (s.ch n).playback = .armed ∨ (s.ch n).playback = .running) ∨ divider = dividerDue s.dev) :
    devConfig divider hp mode align s = accept (configured divider hp mode align s) := by
  rw [devConfig, if_neg (by simp; omega), if_neg]
  · simp only [configured, beq_eq_decide]
    rfl
  · rw [Bool.and_eq_true, anyCh_active_iff, bne_iff_ne]
    rintro ⟨hbusy, hne⟩
    exact h.elim (fun hidle => hidle hbusy) hne

theorem switchAttn_eq (old new : AttnMode) (q : EventQueue) : switchAttn old new q =
    if old = .level ∧ new = .pulse then { q with attn := false }
    else if old = .pulse ∧ new = .level then { q with attn := !q.records.isEmpty, pulse := false }
    else q := by
  cases old <;> cases new <;> rfl

theorem pendingAfter_eq (divider : Nat) (d : Device) : pendingAfter divider d =
    if divider = d.pendingDivider.getD d.divider then d.pendingDivider
    else if divider = d.divider then none else some divider := rfl

theorem zeroPassedAfter_pending {k : Nat} {d : Device} (h : d.pendingDivider ≠ none) :
    zeroPassedAfter k d = d.zeroPassed :=
  if_pos (Option.isSome_iff_ne_none.mpr h)

theorem zeroPassedAfter_passed {k : Nat} {d : Device} (h : d.zeroPassed = true) : zeroPassedAfter k d = true := by
  simp [zeroPassedAfter, h]

theorem zeroInsidePeriod_iff (d : Device) :
    zeroInsidePeriod d = true ↔ ∃ c, d.refEdge = some c ∧ 256 < c + d.divider := by
  unfold zeroInsidePeriod
  cases d.refEdge <;> simp

/-- The edge has passed only where it had, or where it lies strictly inside the period (R183). -/
theorem passed_of_zeroPassedAfter {k : Nat} {d : Device} (h : zeroPassedAfter k d = true) :
    d.zeroPassed = true ∨ ∃ c, d.refEdge = some c ∧ 256 < c + d.divider := by
  rw [← zeroInsidePeriod_iff]
  unfold zeroPassedAfter at h
  split at h
  · exact .inl h
  · rw [Bool.or_eq_true, Bool.and_eq_true] at h
    exact h.imp_right And.left



theorem attnPulseEnd_running (h : s.events.pulse = true) :
    attnPulseEnd s = s.setEvents { s.events with attn := false, pulse := false } := if_pos h

theorem attnPulseEnd_stopped (h : s.events.pulse = false) : attnPulseEnd s = s := by
  simp [attnPulseEnd, h]

end Device

end Sys2Proof.Machine

namespace Sys2Proof.Proofs

open Sys2Proof.Machine

/-- Settles O31: one equation per outcome of the three rows, the shutdown's and the first failure's effect. -/
theorem faultInputs : Obligations.FaultInputs := by
  intro n s hb
  have row : ∀ c, tellsMoment c = false → beginsAfresh c = false → exec c s = .next (actionOf c s) :=
    fun c hm hf => exec_action_between hb hm hf
  refine ⟨fun h => ?_, fun h => ?_, row (.faultRelease n) rfl rfl, fun h => ?_, fun h => ⟨fun hst => ?_,
    fun hst hc => ?_, fun hst => ?_⟩, fun h => ?_, fun h => ?_⟩
  all_goals refine (row _ rfl rfl).trans (congrArg _ ?_)
  · exact faultAssert_released h
  · exact faultAssert_asserted h
  · exact faultQualified_idle h
  · refine (faultQualified_running h).trans ((takeQualified_first ?_).trans (firstFailure_setPr _))
    rwa [pr_setPr_same]
  · refine (faultQualified_running h).trans ((takeQualified_second ?_ ?_).trans (shutDown_setPr _ _)) <;>
      rwa [pr_setPr_same]
  · refine (faultQualified_running h).trans (takeQualified_shut ?_)
    rwa [pr_setPr_same]
  · exact escalationExpiry_expires h
  · exact escalationExpiry_other h

/-- Settles O32: one equation of CH-RESTORE per outcome. -/
theorem restoreReturnsToNormal : Obligations.RestoreReturnsToNormal := by
  intro m s h hlen
  have hbody : ∀ t, bodyOf .chRestore m 0 t = chRestore (chOf m.channel) t := fun t => if_neg (by simp [hlen])
  refine ⟨fun hst ha => ?_, fun hst => ?_, fun hst ha => ?_⟩
  · exact exec_row_refused (k := .chRestore) (by decide) h rfl ((hbody _).trans (chRestore_busy hst ha))
  · exact exec_row_accepted (k := .chRestore) (by decide) h ((hbody _).trans (chRestore_normal hst)) rfl
      ⟨s.link, rfl⟩
  · exact exec_row_accepted (k := .chRestore) (by decide) h ((hbody _).trans (chRestore_released hst ha)) rfl
      ⟨s.link, rfl⟩

/-- Settles O33: two comparisons, each from the state the one before it leaves. -/
theorem temperatureTransitions : Obligations.TemperatureTransitions := by
  intro r s hb hlo hhi
  have held : ∀ x, s.temp.state = x → (holdReading r s).temp.state = x := fun _ h => h
  have goes : ∀ x, s.temp.state = x → holdReading r s = s.setTemp ⟨x, r⟩ := by rintro _ rfl; rfl
  refine ⟨fun h0 => ⟨fun hr => ?_, fun hr hr' => ?_, fun hr => ?_⟩,
    fun h0 => ⟨fun hr => ?_, fun hr hr' => ?_, fun hr => ?_⟩,
    fun h0 => ⟨fun hr => ?_, fun hr hr' => ?_, fun hr => ?_⟩⟩
  all_goals
    rw [exec_tempReading hb hlo hhi]
    have h := held _ h0
  · rw [tempTransition_cool_stays h hr, tempTransition_cool_stays h hr, goes _ h0]
  · rw [tempTransition_cool_warms h hr, tempTransition_warm_stays rfl (by omega) hr']
    rfl
  · rw [tempTransition_cool_warms h (by omega), tempTransition_warm_locks rfl hr]
    rfl
  · rw [tempTransition_warm_cools h hr, tempTransition_cool_stays rfl (by omega)]
    rfl
  · rw [tempTransition_warm_stays h hr hr', tempTransition_warm_stays h hr hr', goes _ h0]
  · rw [tempTransition_warm_locks h hr, tempTransition_lock_stays rfl (by omega)]
    rfl
  · rw [tempTransition_lock_clears h (by omega), tempTransition_warm_cools rfl hr]
    rfl
  · rw [tempTransition_lock_clears h hr', tempTransition_warm_stays rfl hr (by omega)]
    rfl
  · rw [tempTransition_lock_stays h hr, tempTransition_lock_stays h hr, goes _ h0]

/-- Settles O34: the three reports as their words stand, and the pulse timer. -/
theorem reportsAndPulseEnd : Obligations.ReportsAndPulseEnd := by
  refine ⟨fun m s h => ?nop, fun m s h => ⟨fun hp => ?idOk, fun hp => ?idBad⟩,
    fun m s h => ⟨fun hp => ?statusOk, fun hp => ?statusBad⟩, fun s hb => ⟨fun h => ?ends, fun h => ?stays⟩⟩
  case nop => exact exec_row_accepted (k := .nop) (by decide) h rfl rfl ⟨s.link, rfl⟩
  case idOk =>
    exact exec_row_accepted (k := .identify) (by decide) h
      ((if_neg (by simp [hp])).trans (congrArg _ (identifyWords_eq _))) rfl ⟨s.link, rfl⟩
  case idBad => exact exec_row_refused (k := .identify) (by decide) h rfl (if_pos (by simpa using hp))
  case statusOk =>
    refine exec_row_accepted (k := .devStatus) (by decide) h
      ((if_neg (by simp [hp])).trans (congrArg _ ((devStatusWords_eq _).trans ?_))) rfl ⟨s.link, rfl⟩
    rw [receiveWindow_temp]
    cases s.temp.state <;> rfl
  case statusBad => exact exec_row_refused (k := .devStatus) (by decide) h rfl (if_pos (by simpa using hp))
  case ends => exact (exec_action_between hb rfl rfl).trans (congrArg _ (attnPulseEnd_running h))
  case stays => exact (exec_action_between hb rfl rfl).trans (congrArg _ (attnPulseEnd_stopped h))

/-- Settles O35: one equation of DEV-CONFIG per outcome; whether the edge with count 0 has passed is the free
value. -/
theorem deviceConfiguration : Obligations.DeviceConfiguration := by
  intro m s h hlen
  have hbody : ∀ t, bodyOf .devConfig m 0 t =
      devConfig (bitsOf (msgWord m 0) 24 16) (halfPeriodOf (bitsOf (msgWord m 0) 13 12))
        (attnModeOf (flagOf (msgWord m 0) 8)) (bitsOf (msgWord m 0) 7 0) t := fun t => if_neg (by simp [hlen])
  refine ⟨fun hbad => ?_, fun hlo hhi => ⟨fun ⟨hbusy, hdue⟩ => ?_, fun hfree =>
    ⟨zeroPassedAfter s.freeIndex s.dev, zeroPassedAfter_pending, zeroPassedAfter_passed,
      passed_of_zeroPassedAfter, ?_⟩⟩⟩
  · exact exec_row_refused (k := .devConfig) (by decide) h rfl ((hbody _).trans (devConfig_badVal hbad))
  · exact exec_row_refused (k := .devConfig) (by decide) h rfl
      ((hbody _).trans (devConfig_busy hlo hhi hbusy hdue))
  · rw [← pendingAfter_eq, ← switchAttn_eq]
    refine (exec_row_accepted (k := .devConfig) (by decide) h
      ((hbody _).trans (devConfig_accepted hlo hhi hfree)) rfl ⟨s.link, rfl⟩).trans ?_
    generalize bitsOf (msgWord m 0) 13 12 = v
    match v with
    | 0 => rfl
    | 1 => rfl
    | 2 => rfl
    | _ + 3 => rfl

end Sys2Proof.Proofs
end

section
/-! PROOF. The cue send queue as CUE-SEND, the triggers and step emits use it (R117 to R122). -/

namespace Sys2Proof.Machine

/-! ### What a push does (R117 to R119) -/

/-- A cue 0 entry is queued already, so that another one merges with it (R118). -/
def Merges (cue : Nat) (q : List SendEntry) : Prop := cue = 0 ∧ ∃ e ∈ q, e.cue = 0

theorem holdsCue0_iff (q : List SendEntry) : holdsCue0 q = true ↔ ∃ e ∈ q, e.cue = 0 := by
  simp [holdsCue0]

theorem merges_iff (cue : Nat) (q : List SendEntry) :
    (decide (cue = 0) && holdsCue0 q) = true ↔ Merges cue q := by
  rw [Bool.and_eq_true, decide_eq_true_eq, holdsCue0_iff, Merges]

section Push

variable {cue : Nat} {q : List SendEntry} {s : State} {src : CueSource}

theorem pushVerdict_of_merges (h : Merges cue q) : pushVerdict cue q = .merged :=
  if_pos ((merges_iff cue q).mpr h)

theorem pushVerdict_of_full (h : ¬ Merges cue q) (hlen : 8 ≤ q.length) : pushVerdict cue q = .full := by
  rw [pushVerdict, if_neg (mt (merges_iff cue q).mp h), if_pos hlen]

theorem pushVerdict_of_room (h : ¬ Merges cue q) (hlen : q.length < 8) : pushVerdict cue q = .added := by
  rw [pushVerdict, if_neg (mt (merges_iff cue q).mp h), if_neg (by simpa using hlen)]

/-- The state with a cue's new entry in its place. -/
def withEntry (cue : Nat) (src : CueSource) (s : State) : State :=
  s.setCue { s.cue with sendQ := placeEntry ⟨cue, src, 0⟩ s.cue.inFlight.isSome s.cue.sendQ }

theorem pushCue_of_room (h : ¬ Merges cue s.cue.sendQ) (hlen : s.cue.sendQ.length < 8) :
    pushCue cue src s = withEntry cue src s := by
  simp only [pushCue, pushVerdict_of_room h hlen]
  rfl

theorem pushOrDrop_of_merges (h : Merges cue s.cue.sendQ) : pushOrDrop cue src s = s := by
  simp only [pushOrDrop, pushCue, pushVerdict_of_merges h]

theorem pushOrDrop_of_full (h : ¬ Merges cue s.cue.sendQ) (hlen : 8 ≤ s.cue.sendQ.length) :
    pushOrDrop cue src s =
      enterEvent .cueDropped src.channel src.step (some (cueSourceValue cue src)) s := by
  simp only [pushOrDrop, pushVerdict_of_full h hlen]

theorem pushOrDrop_of_room (h : ¬ Merges cue s.cue.sendQ) (hlen : s.cue.sendQ.length < 8) :
    pushOrDrop cue src s = withEntry cue src s := by
  simp only [pushOrDrop, pushVerdict_of_room h hlen, pushCue_of_room h hlen]

theorem placeEntry_other {e : SendEntry} (b : Bool) (h : e.cue ≠ 0) : placeEntry e b q = q ++ [e] := if_neg h

theorem placeEntry_cue0_idle {e : SendEntry} (h : e.cue = 0) : placeEntry e false q = e :: q := by
  cases q <;> simp [placeEntry, h]

theorem placeEntry_cue0_sending {e x : SendEntry} (h : e.cue = 0) :
    placeEntry e true (x :: q) = x :: e :: q := by
  simp [placeEntry, h]

/-! ### CUE-SEND (R120) -/

theorem cueSend_badVal (h : 63 < cue) : cueSend cue s = refuse s .badVal := if_pos h

theorem cueSend_merges (hcue : cue ≤ 63) (h : Merges cue s.cue.sendQ) :
    cueSend cue s = accept s [put 0 s.cue.sendQ.length] := by
  simp only [cueSend, if_neg (Nat.not_lt.mpr hcue), pushVerdict_of_merges h]

theorem cueSend_full (hcue : cue ≤ 63) (h : ¬ Merges cue s.cue.sendQ) (hlen : 8 ≤ s.cue.sendQ.length) :
    cueSend cue s = refuse s .full := by
  simp only [cueSend, if_neg (Nat.not_lt.mpr hcue), pushVerdict_of_full h hlen]

theorem cueSend_added (hcue : cue ≤ 63) (h : ¬ Merges cue s.cue.sendQ) (hlen : s.cue.sendQ.length < 8) :
    cueSend cue s = accept (withEntry cue .cueSend s)
      [put 0 (s.cue.sendQ.length + 1) ||| putFlag 8 true] := by
  simp only [cueSend, if_neg (Nat.not_lt.mpr hcue), pushVerdict_of_room h hlen, pushCue_of_room h hlen,
    withEntry, setCue_cue, placeEntry_length]

end Push

/-! ### Triggers (R121, R122) -/

section Trigger

variable {t : TrigPin} {s : State}

theorem trigPinOf_none {v : Nat} (h : 1 < v) : trigPinOf v = none := by
  rw [trigPinOf, if_neg (by omega), if_neg (by omega)]

/-- The number of a pin (R175). -/
def pinNum : TrigPin → Nat
  | .trig0 => 0
  | .trig1 => 1

theorem trigPinOf_pinNum (t : TrigPin) : trigPinOf (pinNum t) = some t := by cases t <;> rfl

theorem trigConfig_badVal {enable falling : Bool} {cue : Nat} (h : 63 < cue) :
    trigConfig t enable falling cue s = refuse s .badVal := if_pos h

theorem trigConfig_accepted {enable falling : Bool} {cue : Nat} (h : cue ≤ 63) :
    trigConfig t enable falling cue s = accept (s.setCue (setTrig s.cue t { trigOf s.cue t with
      enable := enable, edge := if falling then .falling else .rising, cue := cue })) :=
  if_neg (Nat.not_lt.mpr h)

theorem bodyTrigConfig_badVal {m : Msg} (hlen : m.payload.length = 1)
    (h : 1 < bitsOf (msgWord m 0) 25 24 ∨ 63 < bitsOf (msgWord m 0) 7 0) (s : State) :
    bodyTrigConfig m s = refuse s .badVal := by
  rw [bodyTrigConfig, if_neg (by simp [hlen])]
  obtain hpin | hcue := h
  · rw [trigPinOf_none hpin]
  · cases trigPinOf (bitsOf (msgWord m 0) 25 24) with
    | none => rfl
    | some t => exact trigConfig_badVal hcue

theorem bodyTrigConfig_pin {m : Msg} (hlen : m.payload.length = 1)
    (ht : bitsOf (msgWord m 0) 25 24 = pinNum t) (s : State) : bodyTrigConfig m s =
      trigConfig t (flagOf (msgWord m 0) 16) (flagOf (msgWord m 0) 8) (bitsOf (msgWord m 0) 7 0) s := by
  rw [bodyTrigConfig, if_neg (by simp [hlen]), ht, trigPinOf_pinNum]

/-- A trigger pushes on the qualified edge of its pin (R121). -/
def Pushes (g : Trigger) : Prop := g.enable = true ∧ (g.pin = true ↔ g.edge = .rising)

theorem pushes_iff (g : Trigger) : (g.enable && g.edge == edgeTo g.pin) = true ↔ Pushes g := by
  rw [Bool.and_eq_true, beq_iff_eq, Pushes]
  cases g.pin <;> cases g.edge <;> simp [edgeTo]

/-- The state with a trigger's qualified level its pin's. -/
def withQualified (t : TrigPin) (s : State) : State :=
  s.setCue (setTrig s.cue t { trigOf s.cue t with qualified := (trigOf s.cue t).pin })

theorem trigEdgeQualified_agrees (h : (trigOf s.cue t).pin = (trigOf s.cue t).qualified) :
    trigEdgeQualified t s = s := if_pos h

theorem trigEdgeQualified_silent (h : (trigOf s.cue t).pin ≠ (trigOf s.cue t).qualified)
    (hp : ¬ Pushes (trigOf s.cue t)) : trigEdgeQualified t s = withQualified t s :=
  (if_neg h).trans (if_neg (mt (pushes_iff _).mp hp))

theorem trigEdgeQualified_pushes (h : (trigOf s.cue t).pin ≠ (trigOf s.cue t).qualified)
    (hp : Pushes (trigOf s.cue t)) :
    trigEdgeQualified t s = pushOrDrop (trigOf s.cue t).cue (.trigger t) (withQualified t s) :=
  (if_neg h).trans (if_pos ((pushes_iff _).mpr hp))

@[simp] theorem withQualified_sendQ (t : TrigPin) (s : State) :
    (withQualified t s).cue.sendQ = s.cue.sendQ := by
  cases t <;> rfl

@[simp] theorem withQualified_inFlight (t : TrigPin) (s : State) :
    (withQualified t s).cue.inFlight = s.cue.inFlight := by
  cases t <;> rfl

end Trigger

end Sys2Proof.Machine

namespace Sys2Proof.Proofs

open Sys2Proof.Machine

/-- Settles O24: the verdict on the push, and the place of an added entry. -/
theorem cueSendPlacesTheEntry : Obligations.CueSendPlacesTheEntry := by
  intro m s h hlen cue q merges added
  have hbody : ∀ t, bodyOf .cueSend m 0 t = cueSend cue t := fun t => if_neg (by simp [hlen])
  refine ⟨fun hbad => ?_, fun hcue => ⟨fun hm => ?_, fun hm => ⟨fun hfull => ?_, fun hroom => ?_⟩⟩⟩
  · exact exec_row_refused (k := .cueSend) (by decide) h rfl ((hbody _).trans (cueSend_badVal hbad))
  · exact exec_row_accepted (k := .cueSend) (by decide) h ((hbody _).trans (cueSend_merges hcue hm)) rfl
      ⟨s.link, rfl⟩
  · exact exec_row_refused (k := .cueSend) (by decide) h rfl ((hbody _).trans (cueSend_full hcue hm hfull))
  · have hplaced : added (placeEntry ⟨cue, .cueSend, 0⟩ s.cue.inFlight.isSome q) :=
      exec_row_accepted (k := .cueSend) (by decide) h ((hbody _).trans (cueSend_added hcue hm hroom)) rfl
        ⟨s.link, rfl⟩
    refine ⟨fun hne => ?_, fun h0 => ⟨fun hidle => ?_, fun x rest hsend hq => ?_⟩⟩
    · rwa [placeEntry_other _ hne] at hplaced
    · rwa [hidle, h0, Option.isSome_none, placeEntry_cue0_idle rfl] at hplaced
    · rwa [Option.isSome_iff_ne_none.mpr hsend, hq, h0, placeEntry_cue0_sending rfl] at hplaced

/-- Settles O25: the fields of the pin; then the edge, and the verdict on the push. -/
theorem triggersPushTheirCue : Obligations.TriggersPushTheirCue := by
  refine ⟨fun m s h hlen => ⟨fun hbad => ?_, fun hcue t ht => ?_⟩,
    fun t level s hb => exec_action_between hb rfl rfl, ?edge⟩
  · exact exec_row_refused (k := .trigConfig) (by decide) h rfl (bodyTrigConfig_badVal hlen hbad _)
  · have hpin : bitsOf (msgWord m 0) 25 24 = pinNum t := by
      rw [ht]
      cases t <;> rfl
    exact exec_row_accepted (k := .trigConfig) (by decide) h
      ((bodyTrigConfig_pin hlen hpin _).trans (trigConfig_accepted hcue)) rfl ⟨s.link, rfl⟩
  intro t s hb g u pushes
  refine ⟨fun heq => ?_, fun hne => ⟨fun hp => ?_, fun hp => ⟨fun hm => ?_, fun hm =>
    ⟨fun hfull => ?_, fun hroom => ?_⟩⟩⟩⟩
  all_goals refine (exec_action_between hb rfl rfl).trans (congrArg _ ?_)
  · exact trigEdgeQualified_agrees heq
  · exact trigEdgeQualified_silent hne hp
  all_goals
    refine (trigEdgeQualified_pushes hne hp).trans ?_
    rw [← withQualified_sendQ t s] at hm
  · exact pushOrDrop_of_merges hm
  all_goals change ¬ Merges _ _ at hm
  · rw [← withQualified_sendQ t s] at hfull
    exact pushOrDrop_of_full hm hfull
  · rw [← withQualified_sendQ t s] at hroom
    refine (pushOrDrop_of_room hm hroom).trans ?_
    rw [withEntry, withQualified_sendQ, withQualified_inFlight]
    rfl

end Sys2Proof.Proofs
end

section
/-! PROOF. The resets (R155, R166, R188 to R190), RESET# held low (R82, R149, R190), and the state after power-on. -/

namespace Sys2Proof.Machine

/-! ### What the receiver hears (R103, R113, R114) -/

section Hear

variable (dt ck' dt' : Bool) (r : Receiver)

/-- Nothing that happens while CUECK reads low is heard. -/
theorem hear_ckLow : hear false dt ck' dt' r = r := by
  cases r <;> simp [hear]

/-- The fall of CUECK that ends the start's high half. -/
theorem hear_fall_started (bits : List Bool) :
    hear true dt false dt' (.inside bits true) = .inside bits false := rfl

/-- The fall of CUECK keeps CUEDT's level as a bit. -/
theorem hear_fall_bit {bits : List Bool} (h : bits.length < 7) :
    hear true dt false dt' (.inside bits false) = .inside (bits ++ [dt]) false := by
  simp [hear, Nat.not_le.mpr h]

/-- The eighth bit ends the frame. -/
theorem hear_fall_eighth {bits : List Bool} (h : 7 ≤ bits.length) :
    hear true dt false dt' (.inside bits false) = .ended (bits ++ [dt]) := by
  simp [hear, h]

/-- Outside a frame, or with a row still to be told, a fall of CUECK is nothing. -/
theorem hear_fall_quiet {r : Receiver} (h : ∀ bits started, r ≠ .inside bits started) :
    hear true dt false dt' r = r := by
  cases r with
  | inside bits started => exact absurd rfl (h bits started)
  | _ => rfl

end Hear

/-! ### A frame abandoned by a reset (R123) -/

/-- CUECK stays driven with the abandoned frame: it was, or CUEDT was driven with CUECK high (R123). -/
def keepsClock (c : CueController) : Bool := c.ck.own || (c.dt.own && !c.ck.low)

/-- What the receiver hears of its own abandoned frame: the fall of CUECK and nothing else. -/
def hearsAbandoned (c : CueController) : Receiver :=
  match c.receiver with
  | .inside bits started =>
    if keepsClock c = true ∧ c.ck.low = false then
      if started = true then .inside bits false
      else if bits.length < 7 then .inside (bits ++ [false]) false
      else .ended (bits ++ [false])
    else .inside bits started
  | r => r

theorem hear_abandoned (c : CueController) :
    hear (!c.ck.low) (!c.dt.low) (!(keepsClock c || c.ck.others)) (!(false || c.dt.others)) c.receiver =
      hearsAbandoned c := by
  by_cases hfalls : keepsClock c = true ∧ c.ck.low = false
  · obtain ⟨hkeeps, hck⟩ := hfalls
    obtain ⟨hown, hothers⟩ := Bool.or_eq_false_iff.mp hck
    have hdt : c.dt.own = true := by simpa [keepsClock, hown, hck] using hkeeps
    have hlow : c.dt.low = true := by simp [Wire.low, hdt]
    simp only [hkeeps, hck, hlow, Bool.true_or, Bool.not_true, Bool.not_false, hearsAbandoned, true_and]
    cases c.receiver with
    | inside bits started =>
      cases started with
      | true => exact hear_fall_started ..
      | false =>
        by_cases hlen : bits.length < 7
        · simp [hear_fall_bit _ _ hlen, hlen]
        · simp [hear_fall_eighth _ _ (Nat.not_lt.mp hlen), hlen]
    | _ => exact hear_fall_quiet _ _ (by simp)
  · have hstays : hearsAbandoned c = c.receiver := by
      unfold hearsAbandoned
      cases c.receiver <;> simp [hfalls]
    rw [hstays]
    cases hck : c.ck.low with
    | true => exact hear_ckLow ..
    | false =>
      have hkeeps : keepsClock c = false := by simpa [hck] using hfalls
      obtain ⟨hown, hothers⟩ := Bool.or_eq_false_iff.mp hck
      have hdt : c.dt.own = false := by simpa [keepsClock, hown, hck] using hkeeps
      have hlevel : c.dt.low = (false || c.dt.others) := by rw [Wire.low, hdt]
      rw [hkeeps, hothers, hlevel]
      exact hear_same ..

theorem abandonFrame_eq (c : CueController) : abandonFrame c = { c with
    inFlight := none
    ck := ⟨keepsClock c, c.ck.others⟩
    dt := ⟨false, c.dt.others⟩
    receiver := hearsAbandoned c
    idleEnough := false
    stuckCk := c.stuckCk && (keepsClock c || c.ck.others)
    stuckDt := c.stuckDt && c.dt.others } := by
  rw [← hear_abandoned]
  rfl

/-! ### The rows of DEV-RESET (R188, R189) -/

section DevReset

variable {m : Msg} {s : State}

theorem taken_withScope (v : Nat) (h : Taken .devReset m s) : Taken .devReset (withScope v m) s := by
  obtain ⟨hready, hlen, hch, hlock⟩ := h
  exact ⟨hready, by rwa [withScope_length], by rwa [withScope_channel], hlock⟩

/-- The state a message of kind DEV-RESET acts from: its window is held. -/
def windowHeld (v : Nat) (m : Msg) (s : State) : State :=
  receiveWindow (frameWindow Kind.devReset.code (withScope v m)) s

theorem exec_devResetPlayback (h : Taken .devReset m s) (hlen : m.payload.length = 1) :
    exec (.devResetPlayback m) s =
      .next (pendReply Kind.devReset.code (devResetPlayback (windowHeld 1 m s))) := by
  refine congrArg _ ((takeMessage_taken (taken_withScope 1 h)).trans (congrArg _ ?_))
  rw [bodyDevReset, if_neg (by simp [hlen]), if_pos (scope_withScope (by decide) hlen)]
  rfl

theorem exec_devResetAll (h : Taken .devReset m s) (hlen : m.payload.length = 1) (reading : Int) :
    exec (.devResetAll m reading) s =
      .next (pendReply Kind.devReset.code (devResetAll reading (windowHeld 2 m s))) := by
  refine congrArg _ ((takeMessage_taken (taken_withScope 2 h)).trans (congrArg _ ?_))
  rw [bodyDevReset, if_neg (by simp [hlen]), scope_withScope (by decide) hlen, if_neg (by decide),
    if_pos rfl]
  rfl

end DevReset

theorem get_mapCh (f : Channel → Channel) (q : Quad Channel) (n : Ch) : (mapCh f q).get n = f (q.get n) := by
  cases n <;> rfl

theorem get_mapProt (f : Protection → Protection) (q : Quad Protection) (n : Ch) :
    (mapProt f q).get n = f (q.get n) := by
  cases n <;> rfl

theorem get_keepPins (old new : Quad Channel) (n : Ch) :
    (keepPins old new).get n = { new.get n with out := (old.get n).out } := by
  cases n <;> rfl

/-! ### The temperature evaluated from COOL (R150, R155) -/

section FromCool

variable {reading : Int} {u : State} (h : u.temp.state = .cool)
include h

theorem evaluateTemp_cool (hr : reading < 110) :
    evaluateTemp reading u = u.setTemp ⟨.cool, clamp reading (-40) 150⟩ := by
  have hlt : clamp reading (-40) 150 < 110 := by simp only [clamp]; omega
  have hheld : (holdReading (clamp reading (-40) 150) u).temp.state = .cool := h
  refine (congrArg _ (tempTransition_cool_stays hheld hlt)).trans
    ((tempTransition_cool_stays hheld hlt).trans ?_)
  rw [holdReading, h]

theorem evaluateTemp_warm (hlo : 110 ≤ reading) (hhi : reading < 140) :
    evaluateTemp reading u = enterEvent .tempWarn none none (some (signedWord (clamp reading (-40) 150)))
      (u.setTemp ⟨.warm, clamp reading (-40) 150⟩) := by
  have hlo' : 110 ≤ clamp reading (-40) 150 := by simp only [clamp]; omega
  have hhi' : clamp reading (-40) 150 < 140 := by simp only [clamp]; omega
  have hheld : (holdReading (clamp reading (-40) 150) u).temp.state = .cool := h
  exact (congrArg _ (tempTransition_cool_warms hheld hlo')).trans
    (tempTransition_warm_stays rfl (by omega) hhi')

theorem evaluateTemp_lock (hr : 140 ≤ reading) :
    evaluateTemp reading u = enterEvent .tempLock none none (some (signedWord (clamp reading (-40) 150)))
      (lockAll (enterEvent .tempWarn none none (some (signedWord (clamp reading (-40) 150)))
        (u.setTemp ⟨.warm, clamp reading (-40) 150⟩))) := by
  have hlo : 140 ≤ clamp reading (-40) 150 := by simp only [clamp]; omega
  have hheld : (holdReading (clamp reading (-40) 150) u).temp.state = .cool := h
  exact (congrArg _ (tempTransition_cool_warms hheld (le_trans (by decide) hlo))).trans
    (tempTransition_warm_locks rfl hlo)

end FromCool

/-- Every block at its default, the temperature not yet evaluated: what the three full resets have in common
(R155, R189, R190). `keeps` says whether CUECK stays driven. -/
structure AtDefaults (p : Pins) (keeps : Bool) (u : State) : Prop where
  mem : u.mem = {}
  chans : ∀ n, ∃ out, u.ch n = { defaultChannel p.mksel with out := out }
  cue : u.cue = { ck := ⟨keeps, p.ckLow⟩, dt := ⟨false, p.dtLow⟩, trig0 := defaultTrigger p.trig0,
                  trig1 := defaultTrigger p.trig1 }
  prot : u.prot = ⟨defaultProt p.flt0, defaultProt p.flt1, defaultProt p.flt2, defaultProt p.flt3⟩
  temp : u.temp = {}
  rxBuffer : u.link.rxBuffer = []
  bitCount : u.link.bitCount = 0
  awaitRise : u.link.awaitRise = p.selLow
  events : u.events = {}
  dev : ∃ edge, u.dev =
    { mksel := p.mksel, attnsel := p.attnsel, attnMode := attnModeOf p.attnsel, refEdge := edge }
  closed : u.boundaryOpen = false
  running : u.resetHeld = false

theorem atDefaults_defaults (p : Pins) (s : State) : AtDefaults p false (defaults p s) where
  mem := rfl
  chans n := by cases n <;> exact ⟨_, rfl⟩
  cue := rfl
  prot := rfl
  temp := rfl
  rxBuffer := rfl
  bitCount := rfl
  awaitRise := rfl
  events := rfl
  dev := ⟨_, rfl⟩
  closed := rfl
  running := rfl

theorem atDefaults_freshForAll (reading : Int) (s : State) :
    AtDefaults (heldPins reading s) (keepsClock s.cue) (freshForAll reading s) where
  mem := rfl
  chans n := by cases n <;> exact ⟨_, rfl⟩
  cue := by
    simp only [freshForAll, abandonFrame_eq]
    rfl
  prot := rfl
  temp := rfl
  rxBuffer := rfl
  bitCount := rfl
  awaitRise := rfl
  events := rfl
  dev := ⟨_, rfl⟩
  closed := rfl
  running := rfl

/-- A protection record at its default, or that one derated by the temperature lock. -/
theorem defaultProt_fields (a : Bool) :
    ((defaultProt a).enable = true ∧ (defaultProt a).escalating = false ∧ (defaultProt a).asserted = a ∧
      (defaultProt a).qual = if a = true then .running else .stopped) ∧
    (lockDerate (defaultProt a)).enable = true ∧ (lockDerate (defaultProt a)).escalating = false ∧
      (lockDerate (defaultProt a)).asserted = a ∧
      (lockDerate (defaultProt a)).qual = if a = true then .running else .stopped := by
  cases a <;> exact ⟨⟨rfl, rfl, rfl, rfl⟩, rfl, rfl, rfl, rfl⟩

/-- The default marks of each strap value (R86). -/
theorem strapMarks_eq : ∀ v : BitVec 3, strapMarks v =
    ([(1024, 7168), (512, 7680), (256, 7936), (128, 8064), (64, 8128), (2048, 6144), (1536, 6656),
      (3072, 5120)] : List (Nat × Nat)).getD v.toNat (0, 0) := by decide

/-- The channels, Cue Controller, segment memory, clock and link of a full reset, whatever the reading. -/
theorem AtDefaults.kept {p : Pins} {keeps : Bool} {u : State} (h : AtDefaults p keeps u) (reading : Int) :
    (evaluateTemp reading u).mem = u.mem ∧ (evaluateTemp reading u).chans = u.chans ∧
      (evaluateTemp reading u).cue = u.cue ∧ (evaluateTemp reading u).dev = u.dev ∧
      (evaluateTemp reading u).link = u.link ∧ (evaluateTemp reading u).resetHeld = false ∧
      (evaluateTemp reading u).boundaryOpen = false := by
  have hcool : u.temp.state = .cool := by rw [h.temp]
  have hopen := h.closed
  have hheld := h.running
  by_cases hlo : reading < 110
  · rw [evaluateTemp_cool hcool hlo]
    exact ⟨rfl, rfl, rfl, rfl, rfl, hheld, hopen⟩
  by_cases hhi : reading < 140
  · rw [evaluateTemp_warm hcool (Int.not_lt.mp hlo) hhi]
    exact ⟨rfl, rfl, rfl, rfl, rfl, hheld, hopen⟩
  · rw [evaluateTemp_lock hcool (Int.not_lt.mp hhi)]
    exact ⟨rfl, rfl, rfl, rfl, rfl, hheld, hopen⟩

/-- Whether the fault input of a channel is found asserted. -/
def pinFault (p : Pins) : Ch → Bool
  | .ch0 => p.flt0
  | .ch1 => p.flt1
  | .ch2 => p.flt2
  | .ch3 => p.flt3

theorem AtDefaults.pr {p : Pins} {keeps : Bool} {u : State} (h : AtDefaults p keeps u) (n : Ch) :
    u.pr n = defaultProt (pinFault p n) := by
  rw [State.pr, h.prot]
  cases n <;> rfl

/-- The protection records of a full reset: at their defaults, or derated by the temperature lock. -/
theorem AtDefaults.pr_evaluated {p : Pins} {keeps : Bool} {u : State} (h : AtDefaults p keeps u)
    (reading : Int) (n : Ch) : (evaluateTemp reading u).pr n =
      if reading < 140 then defaultProt (pinFault p n) else lockDerate (defaultProt (pinFault p n)) := by
  have hcool : u.temp.state = .cool := by rw [h.temp]
  by_cases hlo : reading < 110
  · rw [evaluateTemp_cool hcool hlo, if_pos (by omega)]
    exact h.pr n
  by_cases hhi : reading < 140
  · rw [evaluateTemp_warm hcool (Int.not_lt.mp hlo) hhi, if_pos hhi]
    exact h.pr n
  · rw [evaluateTemp_lock hcool (Int.not_lt.mp hhi), if_neg hhi]
    exact (get_mapProt _ _ n).trans (congrArg _ (h.pr n))

/-- The temperature and the records of a full reset, by the reading. -/
theorem AtDefaults.evaluated {p : Pins} {keeps : Bool} {u : State} (h : AtDefaults p keeps u) (reading : Int) :
    (evaluateTemp reading u).temp.reading = clamp reading (-40) 150 ∧
      (evaluateTemp reading u).events.lost = false ∧
      (reading < 110 → (evaluateTemp reading u).temp.state = .cool ∧
        (evaluateTemp reading u).events.records = [] ∧ (evaluateTemp reading u).events.attn = false) ∧
      (110 ≤ reading → reading < 140 → (evaluateTemp reading u).temp.state = .warm ∧
        (evaluateTemp reading u).events.records.map Event.kind = [.tempWarn] ∧
        (evaluateTemp reading u).events.attn = true) ∧
      (140 ≤ reading → (evaluateTemp reading u).temp.state = .lock ∧
        (evaluateTemp reading u).events.records.map Event.kind = [.tempWarn, .tempLock] ∧
        (evaluateTemp reading u).events.attn = true) := by
  have hcool : u.temp.state = .cool := by rw [h.temp]
  have hevents := h.events
  by_cases hlo : reading < 110
  · rw [evaluateTemp_cool hcool hlo]
    simp only [setTemp_temp, setTemp_events, hevents]
    exact ⟨trivial, trivial, fun _ => ⟨trivial, trivial, trivial⟩, fun _ _ => by omega, fun _ => by omega⟩
  by_cases hhi : reading < 140
  · rw [evaluateTemp_warm hcool (Int.not_lt.mp hlo) hhi]
    simp only [enterEvent_temp, setTemp_temp, enterEvent_events, setTemp_events, hevents]
    exact ⟨trivial, rfl, fun _ => by omega, fun _ _ => ⟨trivial, rfl, rfl⟩, fun _ => by omega⟩
  · rw [evaluateTemp_lock hcool (Int.not_lt.mp hhi)]
    simp only [lockAll, enterEvent_temp, setTemp_temp, enterEvent_events, setTemp_events, hevents]
    exact ⟨trivial, rfl, fun _ => by omega, fun _ _ => by omega, fun _ => ⟨trivial, rfl, rfl⟩⟩

/-- The reply a full reset makes pending. -/
abbrev resetReply (cause : ResetCause) (u : State) : State := pendReply 0 (resetAnswer cause u)

/-! ### The reference-edge count (R183) -/

theorem switchDue_some {d : Device} {c : Nat} (h : d.refEdge = some c) : switchDue d = true ↔
    d.pendingDivider ≠ none ∧ 256 ≤ c + d.divider ∧ d.zeroPassed = false := by
  simp only [switchDue, h, Bool.and_eq_true, Option.isSome_iff_ne_none, decide_eq_true_eq,
    Bool.not_eq_true']

theorem switchDue_none {d : Device} (h : d.refEdge = none) :
    switchDue d = true ↔ d.pendingDivider ≠ none := by
  simp only [switchDue, h, Bool.and_true, Option.isSome_iff_ne_none]

theorem edgesToBoundary_eq {d : Device} {c : Nat} (h : d.refEdge = some c) : edgesToBoundary c d =
    if d.pendingDivider ≠ none ∧ 256 ≤ c + d.divider ∧ d.zeroPassed = false then 256 - c else d.divider :=
  if_congr (switchDue_some h) rfl rfl

theorem edgeAtTake_none {k : Nat} {d : Device} (h : d.refEdge = none) : edgeAtTake k d = none := by
  simp only [edgeAtTake, h]

/-! ### RESET# held low (R190) -/

theorem exec_held {c : Instr} {s : State} (h : s.resetHeld = true) (hp : ∀ p, c ≠ .powerOn p)
    (he : ∀ p, c ≠ .pinResetEnd p) : exec c s = .next s := by
  cases hm : tellsMoment c with
  | true => rw [exec_moment s hm, live_held h]
  | false =>
    have hb : beginsAfresh c = false := by
      cases c with
      | powerOn p => exact absurd rfl (hp p)
      | pinResetEnd p => exact absurd rfl (he p)
      | _ => rfl
    rw [exec_action s hm hb, between_held h]

theorem exec_pinResetEnd_held (p : Pins) {s : State} (h : s.resetHeld = true) :
    exec (.pinResetEnd p) s = .next (startUp .pinReset p s) := by
  rw [exec_pinResetEnd, pinResetEnd, if_pos h]

end Sys2Proof.Machine

namespace Sys2Proof.Proofs

open Sys2Proof.Machine

/-- Settles O37: the abandoned frame on the wires, and every channel restarted. -/
theorem playbackResetEffect : Obligations.PlaybackResetEffect := by
  intro m s h hlen c keeps
  refine ⟨mapCh Channel.restart s.chans,
    (pendReply Kind.devReset.code (devResetPlayback (windowHeld 1 m s))).link,
    (exec_devResetPlayback h hlen).trans (congrArg _ ?_), fun n => ?_, rfl, rfl, h.1.2, rfl⟩
  · have hcue : (pendReply Kind.devReset.code (devResetPlayback (windowHeld 1 m s))).cue =
        { abandonFrame s.cue with sendQ := [], delivery := [] } := rfl
    rw [abandonFrame_eq] at hcue
    have hrest : pendReply Kind.devReset.code (devResetPlayback (windowHeld 1 m s)) =
        { s with
          mem := { s.mem with segs := s.mem.segs.map (fun g => { g with refs := 0 }) }
          chans := mapCh Channel.restart s.chans
          cue := (pendReply Kind.devReset.code (devResetPlayback (windowHeld 1 m s))).cue
          link := (pendReply Kind.devReset.code (devResetPlayback (windowHeld 1 m s))).link } := rfl
    rw [hrest, hcue]
    congr 2
  · exact get_mapCh _ _ n

/-- Settles O38: every block at its default, and the temperature evaluated from COOL. -/
theorem fullResets : Obligations.FullResets := by
  unfold Obligations.FullResets
  intro marks begun fresh
  have key : ∀ p keeps u cause, AtDefaults p keeps u →
      begun p cause.word keeps (resetReply cause (evaluateTemp p.reading u)) := by
    intro p keeps u cause h
    obtain ⟨hmem, hchans, hcue, hdev, hlink, hheld, hopen⟩ := h.kept p.reading
    obtain ⟨edge, hclock⟩ := h.dev
    have hdev : (evaluateTemp p.reading u).dev = _ := hdev.trans hclock
    have hpr : ∀ n, (resetReply cause (evaluateTemp p.reading u)).pr n = _ := h.pr_evaluated p.reading
    have hch : ∀ n, (resetReply cause (evaluateTemp p.reading u)).ch n = u.ch n := fun n =>
      congrArg (fun q : Quad Channel => q.get n) hchans
    obtain ⟨hreading, hlost, hcool, hwarm, hlock⟩ := h.evaluated p.reading
    refine ⟨hmem.trans h.mem, fun n => ?chans, hcue.trans h.cue, fun n => ?prot, ?flt0, ?flt1, ?flt2, ?flt3,
      (congrArg Link.rxBuffer hlink).trans h.rxBuffer, (congrArg Link.bitCount hlink).trans h.bitCount,
      (congrArg Link.awaitRise hlink).trans h.awaitRise, rfl, congrArg Device.counter hdev,
      congrArg Device.divider hdev, congrArg Device.pendingDivider hdev, congrArg Device.zeroPassed hdev,
      congrArg Device.half hdev, congrArg Device.align hdev, congrArg Device.mksel hdev,
      congrArg Device.attnsel hdev, congrArg Device.attnMode hdev, hreading, hheld, hopen, hlost,
      fun hr => ?cool, fun hlo hhi => ?warm, fun hr => ?lock⟩
    case chans =>
      obtain ⟨out, hout⟩ := h.chans n
      rw [hch, hout]
      refine ⟨rfl, rfl, rfl, rfl, rfl, rfl, rfl, rfl, rfl, rfl, ?_⟩
      exact congrArg (fun x : Nat × Nat => (⟨-32768, 32767, 0, .park, x.1, x.2, 1024⟩ : Settings))
        (strapMarks_eq p.mksel)
    case prot =>
      obtain ⟨⟨he, hs, ha, hq⟩, he', hs', ha', hq'⟩ := defaultProt_fields (pinFault p n)
      rw [hpr]
      split
      · exact ⟨he, hs, by rw [hq, ha]⟩
      · exact ⟨he', hs', by rw [hq', ha']⟩
    case cool =>
      obtain ⟨hst, hrec, hattn⟩ := hcool hr
      exact ⟨hst, hrec, hattn, fun n => by rw [hpr, if_pos (by omega)]; exact ⟨rfl, rfl⟩⟩
    case warm =>
      obtain ⟨hst, hrec, hattn⟩ := hwarm hlo hhi
      exact ⟨hst, hrec, hattn, fun n => by rw [hpr, if_pos hhi]; exact ⟨rfl, rfl⟩⟩
    case lock =>
      obtain ⟨hst, hrec, hattn⟩ := hlock hr
      exact ⟨hst, hrec, hattn, fun n => by rw [hpr, if_neg (by omega)]; exact ⟨rfl, rfl⟩⟩
    all_goals
      rw [hpr]
      split
      · rfl
      · rfl
  have outs : ∀ cause p s n, ((startUp cause p s).ch n).out = fresh := by
    intro cause p s n
    have hchans : (startUp cause p s).chans = (defaults p s).chans :=
      ((atDefaults_defaults p s).kept p.reading).2.1
    rw [State.ch, hchans]
    cases n <;> rfl
  have edges : ∀ cause p s, (startUp cause p s).dev.refEdge = none := by
    intro cause p s
    obtain ⟨-, -, -, hdev, -⟩ := (atDefaults_defaults p s).kept p.reading
    exact congrArg Device.refEdge hdev
  refine ⟨fun p s => ⟨⟨_, rfl, key p _ _ .powerOn (atDefaults_defaults p s), edges _ p s, outs _ p s⟩,
    fun hr => ⟨_, exec_pinResetEnd_held p hr, key p _ _ .pinReset (atDefaults_defaults p s), edges _ p s,
      outs _ p s⟩⟩, fun m reading s h hlen => ⟨_, exec_devResetAll h hlen reading, ?_, ?_, ?_, fun n => ?_⟩⟩
  · exact key _ _ _ .devAll (atDefaults_freshForAll reading (windowHeld 2 m s))
  all_goals
    obtain ⟨-, hchans, -, hdev, -⟩ := (atDefaults_freshForAll reading (windowHeld 2 m s)).kept reading
    have hedge : (evaluateTemp reading (freshForAll reading (windowHeld 2 m s))).dev.refEdge =
      edgeAtTake s.freeIndex s.dev := congrArg Device.refEdge hdev
  · exact fun hnone => hedge.trans (edgeAtTake_none hnone)
  · intro c hc least next hlt
    rw [show next = edgesToBoundary c s.dev from (edgesToBoundary_eq hc).symm] at hlt ⊢
    obtain ⟨e, hlo, hhi, he⟩ := edgeAtTake_some (k := s.freeIndex) hc hlt
    exact ⟨e, hlo, hhi, hedge.trans he⟩
  · exact (congrArg (fun q : Quad Channel => (q.get n).out) hchans).trans
      (congrArg Channel.out (get_keepPins s.chans (defaults (heldPins reading s) s).chans n) :)

/-- Settles O39: the fields one by one; every other row is a moment or acts between two boundaries. -/
theorem heldResetDrivesOutputs : Obligations.HeldResetDrivesOutputs := by
  refine ⟨fun s hb => ⟨_, exec_action_between hb rfl rfl, rfl, fun n => ⟨?_, ?_, ?_⟩, rfl, rfl, rfl, rfl, rfl,
    rfl, rfl, rfl, rfl⟩, fun c s h hp he => exec_held h hp he, fun p s h => ?_, fun s hf hp => ?_⟩
  · exact congrArg Channel.out (get_mapCh holdPins s.chans n)
  · exact congrArg Channel.markers (get_mapCh holdPins s.chans n)
  · exact congrArg Protection.enable (get_mapProt disable s.prot n)
  · rw [exec_pinResetEnd, pinResetEnd, h]
    rfl
  · cases s
    cases hf
    cases hp
    rfl

end Sys2Proof.Proofs
end

section
/-! PROOF. The state after power-on meets every block's invariant (R190). -/

namespace Sys2Proof.Machine

theorem reset_ch (n : Ch) : State.reset.ch n = Channel.reset := by cases n <;> rfl
theorem reset_pr (n : Ch) : State.reset.pr n = {} := by cases n <;> rfl

theorem tableOk_reset : TableOk State.reset := by
  refine ⟨fun a => ?_, ⟨List.pairwise_singleton _ _, by decide⟩, List.Pairwise.nil,
    fun _ hg => absurd hg List.not_mem_nil, List.nodup_nil, fun id => ?_⟩
  · simp only [State.reset, ownersOf, inRun, List.countP_cons, List.countP_nil]
    by_cases ha : a < 262144 <;> simp [ha]
  · exact iff_of_false List.not_mem_nil fun ⟨_, hg, _⟩ => absurd hg List.not_mem_nil

theorem refsOk_reset : RefsOk State.reset :=
  ⟨List.Pairwise.nil, fun _ hg => absurd hg List.not_mem_nil, fun _ h => absurd h (Nat.lt_irrefl 0)⟩

theorem lineOk_reset : LineOk State.reset := by
  refine fun _ => ⟨fun h => ?_, fun h => ?_, fun h => ?_, fun _ => rfl, fun _ h => ?_⟩ <;> cases h

theorem queuesOk_reset : QueuesOk State.reset := ⟨by decide, by decide, by decide⟩

theorem cue0Ok_reset : Cue0Ok State.reset := by
  refine fun _ => ⟨by decide, fun i e h => ?_⟩
  cases h

theorem attnOk_reset : AttnOk State.reset := by
  refine fun _ => ⟨fun _ => ⟨rfl, rfl⟩, fun h => ?_⟩
  cases h

theorem lockOk_reset : LockOk State.reset := by
  intro h
  cases h

end Sys2Proof.Machine

namespace Sys2Proof.Proofs

open Sys2Proof.Machine

/-- Settles O40: block by block; every channel and every protection record is at its default. -/
theorem resetStateIsGood : Obligations.ResetStateIsGood := by
  refine ⟨rfl, tableOk_reset, refsOk_reset, fun n => ?_, fun n => ?_, fun n => ?_, fun n => ?_, fun n => ?_,
    fun n => ?_, queuesOk_reset, cue0Ok_reset, lineOk_reset, fun n => ?_, fun n => ?_, lockOk_reset,
    attnOk_reset⟩
  all_goals simp only [reset_ch, reset_pr]
  · exact ⟨by decide, fun t ht => absurd ht List.not_mem_nil⟩
  · decide
  · exact ⟨by decide, by decide, by decide, by decide, by decide, by decide⟩
  · decide
  · intro h
    cases h
  · refine ⟨by decide, fun h => ?_⟩
    cases h
  · refine ⟨rfl, fun h => ?_⟩
    cases h
  · refine ⟨⟨fun h => ?_, fun h => ?_⟩, fun h => ?_⟩ <;> cases h

end Sys2Proof.Proofs
end

section
/-! PROOF. What one channel's stage of a boundary does, in one form for every stage: it replaces that channel, and
then enters records and pushes cues, all by what it sees of its own channel (R41; log entry 6). -/

namespace Sys2Proof.Machine

/-! ### Records entered and cues pushed by a stage -/

/-- What a stage adds to the event queue or the send queue. -/
inductive Emission where
  | record (kind : EventKind) (channel : Option Ch) (step : Option Nat) (value : Option Word)
  | push (cue : Nat) (src : CueSource)

/-- One emission made. -/
def emit (e : Emission) (s : State) : State :=
  match e with
  | .record k c i v => enterEvent k c i v s
  | .push cue src => pushOrDrop cue src s

/-- Emissions made in their order. -/
def emitAll (es : List Emission) (s : State) : State := es.foldl (fun t e => emit e t) s

section Emit

variable (e : Emission) (es : List Emission) (s : State)

@[simp] theorem emit_ch (k : Ch) : (emit e s).ch k = s.ch k := by cases e <;> simp [emit]
@[simp] theorem emit_chans : (emit e s).chans = s.chans := by cases e <;> simp [emit]
@[simp] theorem emit_pr (k : Ch) : (emit e s).pr k = s.pr k := by cases e <;> simp [emit]
@[simp] theorem emit_mem : (emit e s).mem = s.mem := by cases e <;> simp [emit]
@[simp] theorem emit_dev : (emit e s).dev = s.dev := by cases e <;> simp [emit]
@[simp] theorem emit_boundaryOpen : (emit e s).boundaryOpen = s.boundaryOpen := by cases e <;> simp [emit]
@[simp] theorem emit_resetHeld : (emit e s).resetHeld = s.resetHeld := by cases e <;> simp [emit]

theorem pushOrDrop_setCh (cue : Nat) (src : CueSource) (n : Ch) (c : Channel) :
    pushOrDrop cue src (s.setCh n c) = (pushOrDrop cue src s).setCh n c := by
  simp only [pushOrDrop, pushCue, setCh_cue]
  cases pushVerdict cue s.cue.sendQ <;> rfl

theorem emit_setCh (n : Ch) (c : Channel) : emit e (s.setCh n c) = (emit e s).setCh n c := by
  cases e with
  | record k ch i v => rfl
  | push cue src => exact pushOrDrop_setCh s cue src n c

@[simp] theorem emitAll_nil : emitAll [] s = s := rfl
@[simp] theorem emitAll_cons : emitAll (e :: es) s = emitAll es (emit e s) := rfl

theorem emitAll_append (es' : List Emission) : emitAll (es ++ es') s = emitAll es' (emitAll es s) :=
  List.foldl_append

theorem emitAll_setCh (n : Ch) (c : Channel) : emitAll es (s.setCh n c) = (emitAll es s).setCh n c := by
  induction es generalizing s with
  | nil => rfl
  | cons e es ih => rw [emitAll_cons, emit_setCh, ih, emitAll_cons]

@[simp] theorem emitAll_ch (k : Ch) : (emitAll es s).ch k = s.ch k := by
  induction es generalizing s with
  | nil => rfl
  | cons e es ih => rw [emitAll_cons, ih, emit_ch]

@[simp] theorem emitAll_chans : (emitAll es s).chans = s.chans := by
  induction es generalizing s with
  | nil => rfl
  | cons e es ih => rw [emitAll_cons, ih, emit_chans]

@[simp] theorem emitAll_pr (k : Ch) : (emitAll es s).pr k = s.pr k := by
  induction es generalizing s with
  | nil => rfl
  | cons e es ih => rw [emitAll_cons, ih, emit_pr]

@[simp] theorem emitAll_mem : (emitAll es s).mem = s.mem := by
  induction es generalizing s with
  | nil => rfl
  | cons e es ih => rw [emitAll_cons, ih, emit_mem]

@[simp] theorem emitAll_dev : (emitAll es s).dev = s.dev := by
  induction es generalizing s with
  | nil => rfl
  | cons e es ih => rw [emitAll_cons, ih, emit_dev]

@[simp] theorem emitAll_boundaryOpen : (emitAll es s).boundaryOpen = s.boundaryOpen := by
  induction es generalizing s with
  | nil => rfl
  | cons e es ih => rw [emitAll_cons, ih, emit_boundaryOpen]

@[simp] theorem emitAll_resetHeld : (emitAll es s).resetHeld = s.resetHeld := by
  induction es generalizing s with
  | nil => rfl
  | cons e es ih => rw [emitAll_cons, ih, emit_resetHeld]

end Emit

/-! ### Channels replaced -/

section SetCh

variable (s : State) (n : Ch) (c d : Channel)

@[simp] theorem setCh_setCh : (s.setCh n c).setCh n d = s.setCh n d := by cases n <;> rfl

@[simp] theorem setCh_self : s.setCh n (s.ch n) = s := by cases n <;> rfl

theorem setCh_comm {n k : Ch} (h : k ≠ n) (c d : Channel) :
    (s.setCh n c).setCh k d = (s.setCh k d).setCh n c := by
  cases n <;> cases k <;> first | rfl | exact absurd rfl h

end SetCh

/-! ### A stage seen from its channel -/

/-- Two states look the same from channel `n`. -/
def SameView (n : Ch) (s t : State) : Prop :=
  t.ch n = s.ch n ∧ t.mem = s.mem ∧ t.pr n = s.pr n ∧ t.dev = s.dev

theorem sameView_refl (n : Ch) (s : State) : SameView n s s := ⟨rfl, rfl, rfl, rfl⟩

/-- From every state that looks like `s` to channel `n`, the stage replaces the channel by `c` and makes the
emissions `es`. -/
def ActsAs (n : Ch) (f : State → State) (s : State) (c : Channel) (es : List Emission) : Prop :=
  ∀ t, SameView n s t → f t = emitAll es (t.setCh n c)

section ActsAs

variable {n : Ch} {f g : State → State} {s : State} {c c' : Channel} {es es' : List Emission}

theorem ActsAs.eq (h : ActsAs n f s c es) : f s = emitAll es (s.setCh n c) := h s (sameView_refl n s)

theorem ActsAs.ch (h : ActsAs n f s c es) : (f s).ch n = c := by
  rw [h.eq, emitAll_ch, ch_setCh_same]

theorem ActsAs.congr (h : ActsAs n g s c es) (hfg : ∀ t, SameView n s t → f t = g t) :
    ActsAs n f s c es := fun t ht => (hfg t ht).trans (h t ht)

theorem actsAs_id : ActsAs n (fun t => t) s (s.ch n) [] := by
  intro t ht
  rw [← ht.1, setCh_self, emitAll_nil]

theorem actsAs_setCh {F : State → Channel} (hF : ∀ t, SameView n s t → F t = c) :
    ActsAs n (fun t => t.setCh n (F t)) s c [] := fun t ht => by
  simp only [hF t ht, emitAll_nil]

theorem actsAs_emit (e : Emission) : ActsAs n (emit e) s (s.ch n) [e] := by
  intro t ht
  rw [← ht.1, setCh_self]
  rfl

/-- One stage after another, seen from the same channel. -/
theorem ActsAs.andThen (h : ActsAs n f s c es) (k : ActsAs n g (s.setCh n c) c' es') :
    ActsAs n (fun t => g (f t)) s c' (es ++ es') := by
  intro t ht
  obtain ⟨-, hmem, hpr, hdev⟩ := id ht
  have hview : SameView n (s.setCh n c) (emitAll es (t.setCh n c)) := by
    refine ⟨?_, ?_, ?_, ?_⟩
    · simp
    · simpa using hmem
    · simpa using hpr
    · simpa using hdev
  have hafter : (emitAll es (t.setCh n c)).setCh n c' = emitAll es (t.setCh n c') := by
    rw [← emitAll_setCh, setCh_setCh]
  simp only [h t ht, k _ hview, hafter, emitAll_append]

end ActsAs

/-! ### The stages of several channels -/

/-- The channels of a list replaced. -/
def setAll (l : List Ch) (c : Ch → Channel) (s : State) : State := eachCh l (fun n t => t.setCh n (c n)) s

theorem setAll_emitAll (l : List Ch) (c : Ch → Channel) (es : List Emission) (s : State) :
    setAll l c (emitAll es s) = emitAll es (setAll l c s) := by
  induction l generalizing s with
  | nil => rfl
  | cons k l ih =>
    simp only [setAll, eachCh_cons]
    rw [← emitAll_setCh]
    exact ih _

theorem setAll_ch {l : List Ch} (hl : l.Nodup) (c : Ch → Channel) (s : State) (k : Ch) :
    (setAll l c s).ch k = if k ∈ l then c k else s.ch k := by
  induction l generalizing s with
  | nil => simp [setAll]
  | cons n l ih =>
    obtain ⟨hn, hl⟩ := List.nodup_cons.mp hl
    rw [setAll, eachCh_cons]
    refine (ih hl _).trans ?_
    rw [ch_setCh]
    by_cases hk : k = n
    · subst hk
      simp [hn]
    · simp [hk]

/-- Nothing but channels is replaced. -/
theorem setAll_fields (l : List Ch) (c : Ch → Channel) (s : State) :
    ∃ q, setAll l c s = { s with chans := q } := by
  induction l generalizing s with
  | nil => exact ⟨_, rfl⟩
  | cons n l ih =>
    obtain ⟨q, hq⟩ := ih (s.setCh n (c n))
    exact ⟨q, hq⟩

@[simp] theorem setAll_mem (l : List Ch) (c : Ch → Channel) (s : State) : (setAll l c s).mem = s.mem := by
  obtain ⟨q, hq⟩ := setAll_fields l c s
  rw [hq]

@[simp] theorem setAll_dev (l : List Ch) (c : Ch → Channel) (s : State) : (setAll l c s).dev = s.dev := by
  obtain ⟨q, hq⟩ := setAll_fields l c s
  rw [hq]

@[simp] theorem setAll_events (l : List Ch) (c : Ch → Channel) (s : State) :
    (setAll l c s).events = s.events := by
  obtain ⟨q, hq⟩ := setAll_fields l c s
  rw [hq]

@[simp] theorem setAll_cue (l : List Ch) (c : Ch → Channel) (s : State) : (setAll l c s).cue = s.cue := by
  obtain ⟨q, hq⟩ := setAll_fields l c s
  rw [hq]

@[simp] theorem setAll_boundaryOpen (l : List Ch) (c : Ch → Channel) (s : State) :
    (setAll l c s).boundaryOpen = s.boundaryOpen := by
  obtain ⟨q, hq⟩ := setAll_fields l c s
  rw [hq]

/-- The stages of different channels do not meet: each acts as it would from the state before them all. -/
theorem eachCh_actsAs {l : List Ch} (hl : l.Nodup) {f : Ch → State → State} {s : State} {c : Ch → Channel}
    {es : Ch → List Emission} (hf : ∀ n ∈ l, ActsAs n (f n) s (c n) (es n)) :
    eachCh l f s = emitAll (l.flatMap es) (setAll l c s) := by
  suffices h : ∀ t, (∀ n ∈ l, SameView n s t) → eachCh l f t = emitAll (l.flatMap es) (setAll l c t) from
    h s fun n _ => sameView_refl n s
  induction l with
  | nil => exact fun _ _ => rfl
  | cons n l ih =>
    intro t ht
    obtain ⟨hn, hl⟩ := List.nodup_cons.mp hl
    have htail : ∀ k ∈ l, SameView k s (emitAll (es n) (t.setCh n (c n))) := by
      intro k hk
      obtain ⟨hch, hmem, hpr, hdev⟩ := ht k (List.mem_cons_of_mem _ hk)
      have hne : k ≠ n := fun h => hn (h ▸ hk)
      refine ⟨?_, ?_, ?_, ?_⟩
      · simpa [ch_setCh_ne _ _ hne] using hch
      · simpa using hmem
      · simpa using hpr
      · simpa using hdev
    rw [eachCh_cons, hf n (by simp) t (ht n (by simp)),
      ih hl (fun k hk => hf k (List.mem_cons_of_mem _ hk)) _ htail, List.flatMap_cons, emitAll_append,
      setAll_emitAll, setAll, setAll, eachCh_cons]

/-- The channel a stage leaves among the others. -/
theorem eachCh_actsAs_ch {l : List Ch} (hl : l.Nodup) {f : Ch → State → State} {s : State}
    {c : Ch → Channel} {es : Ch → List Emission} (hf : ∀ n ∈ l, ActsAs n (f n) s (c n) (es n)) (k : Ch) :
    (eachCh l f s).ch k = if k ∈ l then c k else s.ch k := by
  rw [eachCh_actsAs hl hf, emitAll_ch, setAll_ch hl]

end Sys2Proof.Machine
end

section
/-! PROOF. Step ends: the jump table, list end, repeat boundaries (R53, R55 to R57). -/

namespace Sys2Proof.Machine

theorem jumpOutcome_eq (k : Nat) (t : Slot) : jumpOutcome k t = (nextIndex t k, loopsAfter t) := by
  unfold jumpOutcome nextIndex loopsAfter
  cases t.record.jump with
  | none => rfl
  | some j =>
    by_cases hcount : j.count = 0
    · simp [hcount]
    · by_cases hloops : 0 < t.loops <;> simp [hcount, hloops]

section StepEnd

variable {n : Ch} {s : State} {t : Slot}

theorem afterStepEnd_inside {c : Channel} (h : nextIndex t c.run.step < c.list.length) :
    afterStepEnd t c = { c with
      list := c.list.set c.run.step { t with loops := loopsAfter t }
      run := { c.run with next := some (nextIndex t c.run.step), owed := .nothing } } := if_pos h

theorem afterStepEnd_beyond {c : Channel} (h : c.list.length ≤ nextIndex t c.run.step) :
    afterStepEnd t c =
      ({ c with list := c.list.set c.run.step { t with loops := loopsAfter t } } : Channel).toDone := by
  rw [afterStepEnd, if_neg (Nat.not_lt.mpr h)]
  simp only [Channel.toDone]
  cases c.settings.endAction <;> rfl

/-- The records of a step end: SEQ_DONE at list end (R57). -/
def endRecords (n : Ch) (t : Slot) (c : Channel) : List Emission :=
  if c.list.length ≤ nextIndex t c.run.step then [.record .seqDone (some n) (some c.run.step) none] else []

theorem stepEnd_none (h : (s.ch n).list[(s.ch n).run.step]? = none) : stepEnd n s = s := by
  simp only [stepEnd, h]

theorem stepEnd_some (h : (s.ch n).list[(s.ch n).run.step]? = some t) :
    stepEnd n s = emitAll (endRecords n t (s.ch n)) (s.setCh n (afterStepEnd t (s.ch n))) := by
  simp only [stepEnd, h, jumpOutcome_eq]
  by_cases hin : nextIndex t (s.ch n).run.step < (s.ch n).list.length
  · rw [if_pos hin, afterStepEnd_inside hin, endRecords, if_neg (Nat.not_le.mpr hin)]
    rfl
  · rw [if_neg hin, afterStepEnd_beyond (Nat.not_lt.mp hin), endRecords, if_pos (Nat.not_lt.mp hin)]
    rfl

theorem stepEnd_inside (h : (s.ch n).list[(s.ch n).run.step]? = some t)
    (hin : nextIndex t (s.ch n).run.step < (s.ch n).list.length) :
    stepEnd n s = s.setCh n (afterStepEnd t (s.ch n)) := by
  rw [stepEnd_some h, endRecords, if_neg (Nat.not_le.mpr hin)]
  rfl

theorem stepEnd_beyond (h : (s.ch n).list[(s.ch n).run.step]? = some t)
    (hout : (s.ch n).list.length ≤ nextIndex t (s.ch n).run.step) :
    stepEnd n s = enterEvent .seqDone (some n) (some (s.ch n).run.step) none
      (s.setCh n (afterStepEnd t (s.ch n))) := by
  rw [stepEnd_some h, endRecords, if_pos hout]
  rfl

theorem actsAs_stepEnd (h : (s.ch n).list[(s.ch n).run.step]? = some t) :
    ActsAs n (stepEnd n) s (afterStepEnd t (s.ch n)) (endRecords n t (s.ch n)) := by
  intro u hu
  rw [← hu.1] at h ⊢
  exact stepEnd_some h

theorem actsAs_stepEnd_none (h : (s.ch n).list[(s.ch n).run.step]? = none) :
    ActsAs n (stepEnd n) s (s.ch n) [] :=
  actsAs_id.congr fun _ hu => stepEnd_none (by rwa [hu.1])

/-! ### Repeat boundaries (R53) -/

theorem record_some_iff {c : Channel} {r : StepRecord} :
    c.record = some r ↔ ∃ t, c.list[c.run.step]? = some t ∧ t.record = r := by
  simp [Channel.record]

theorem currentSegment_memory {r : StepRecord} {id : Nat} (hr : (s.ch n).record = some r)
    (hsrc : r.source = .memory id) : currentSegment n s = findSeg s.mem.segs id := by
  simp only [currentSegment, hr, hsrc]

theorem currentSegment_congr {u : State} (h : SameView n s u) : currentSegment n u = currentSegment n s := by
  simp only [currentSegment, h.1, h.2.1]

theorem continues_iff {leave : Bool} {repeats left : Nat} : continues leave repeats left = true ↔
    leave = false ∧ (repeats = 0 ∨ 1 < left) := by
  simp only [continues, repeatsAfter, Bool.and_eq_true, Bool.not_eq_true', decide_eq_true_eq,
    Bool.or_eq_true]
  by_cases h : repeats = 0
  · simp [h]
  · have hleft : 0 < left - 1 ↔ 1 < left := by omega
    simp [h, hleft]

theorem continues_eq_false_iff {leave : Bool} {repeats left : Nat} : continues leave repeats left = false ↔
    leave = true ∨ (repeats ≠ 0 ∧ left ≤ 1) := by
  rw [← Bool.not_eq_true, continues_iff]
  cases leave <;> simp

variable {r : StepRecord} {g : Segment}

/-- The channel that plays on after a repeat boundary. -/
def playingOn (r : StepRecord) (g : Segment) (c : Channel) : Channel :=
  { c with run := { c.run with
      i := (advancePos c.run.i c.run.f r.rate).1 - g.play
      f := (advancePos c.run.i c.run.f r.rate).2
      repeatsLeft := repeatsAfter r.repeats c.run.repeatsLeft
      owed := .nothing } }

/-- The channel at a repeat boundary that ends the step. -/
def repeatCounted (r : StepRecord) (c : Channel) : Channel :=
  { c with run := { c.run with repeatsLeft := repeatsAfter r.repeats c.run.repeatsLeft, owed := .nothing } }

theorem resolveRepeat_continues (hr : (s.ch n).record = some r) (hg : currentSegment n s = some g)
    (hc : continues (s.ch n).run.leave r.repeats (s.ch n).run.repeatsLeft = true) :
    resolveRepeat n s = s.setCh n (playingOn r g (s.ch n)) := by
  simp only [resolveRepeat, hr, hg, hc]
  rfl

theorem resolveRepeat_ends (hr : (s.ch n).record = some r) (hg : currentSegment n s = some g)
    (hc : continues (s.ch n).run.leave r.repeats (s.ch n).run.repeatsLeft = false) :
    resolveRepeat n s = stepEnd n (s.setCh n (repeatCounted r (s.ch n))) := by
  simp only [resolveRepeat, hr, hg, hc]
  rfl

theorem resolveRepeat_noSegment (hg : currentSegment n s = none) : resolveRepeat n s = s := by
  simp only [resolveRepeat, hg]
  cases (s.ch n).record <;> rfl

theorem currentSegment_eq_none (hr : (s.ch n).record = none) : currentSegment n s = none := by
  simp only [currentSegment, hr]

/-- The step end at a repeat boundary. -/
theorem resolveRepeat_ends_some (hslot : (s.ch n).list[(s.ch n).run.step]? = some t)
    (hg : currentSegment n s = some g)
    (hc : continues (s.ch n).run.leave t.record.repeats (s.ch n).run.repeatsLeft = false) :
    resolveRepeat n s = emitAll (endRecords n t (s.ch n))
      (s.setCh n (afterStepEnd t (repeatCounted t.record (s.ch n)))) := by
  have hr : (s.ch n).record = some t.record := record_some_iff.mpr ⟨t, hslot, rfl⟩
  have hslot' : ((s.setCh n (repeatCounted t.record (s.ch n))).ch n).list[
      ((s.setCh n (repeatCounted t.record (s.ch n))).ch n).run.step]? = some t := by
    rw [ch_setCh_same]
    exact hslot
  rw [resolveRepeat_ends hr hg hc, stepEnd_some hslot', ch_setCh_same, setCh_setCh]
  rfl

theorem actsAs_resolveRepeat_continues (hr : (s.ch n).record = some r) (hg : currentSegment n s = some g)
    (hc : continues (s.ch n).run.leave r.repeats (s.ch n).run.repeatsLeft = true) :
    ActsAs n (resolveRepeat n) s (playingOn r g (s.ch n)) [] := by
  intro u hu
  rw [← currentSegment_congr hu] at hg
  rw [← hu.1] at hr hc ⊢
  exact resolveRepeat_continues hr hg hc

theorem actsAs_resolveRepeat_ends (hslot : (s.ch n).list[(s.ch n).run.step]? = some t)
    (hg : currentSegment n s = some g)
    (hc : continues (s.ch n).run.leave t.record.repeats (s.ch n).run.repeatsLeft = false) :
    ActsAs n (resolveRepeat n) s (afterStepEnd t (repeatCounted t.record (s.ch n)))
      (endRecords n t (s.ch n)) := by
  intro u hu
  rw [← currentSegment_congr hu] at hg
  rw [← hu.1] at hslot hc ⊢
  exact resolveRepeat_ends_some hslot hg hc

theorem actsAs_resolveRepeat_none (hg : currentSegment n s = none) :
    ActsAs n (resolveRepeat n) s (s.ch n) [] :=
  actsAs_id.congr fun _ hu => resolveRepeat_noSegment ((currentSegment_congr hu).trans hg)

/-- What a repeat boundary can make of the channel. -/
theorem resolveRepeat_cases (n : Ch) (s : State) :
    (currentSegment n s = none ∧ ActsAs n (resolveRepeat n) s (s.ch n) []) ∨
    ∃ t g, (s.ch n).list[(s.ch n).run.step]? = some t ∧ currentSegment n s = some g ∧
      ((continues (s.ch n).run.leave t.record.repeats (s.ch n).run.repeatsLeft = true ∧
        ActsAs n (resolveRepeat n) s (playingOn t.record g (s.ch n)) []) ∨
      (continues (s.ch n).run.leave t.record.repeats (s.ch n).run.repeatsLeft = false ∧
        ActsAs n (resolveRepeat n) s (afterStepEnd t (repeatCounted t.record (s.ch n)))
          (endRecords n t (s.ch n)))) := by
  cases hg : currentSegment n s with
  | none => exact .inl ⟨rfl, actsAs_resolveRepeat_none hg⟩
  | some g =>
    right
    cases hslot : (s.ch n).list[(s.ch n).run.step]? with
    | none =>
      have hr : (s.ch n).record = none := by simp [Channel.record, hslot]
      rw [currentSegment_eq_none hr] at hg
      cases hg
    | some t =>
      have hr : (s.ch n).record = some t.record := record_some_iff.mpr ⟨t, hslot, rfl⟩
      refine ⟨t, g, rfl, rfl, ?_⟩
      cases hc : continues (s.ch n).run.leave t.record.repeats (s.ch n).run.repeatsLeft with
      | true => exact .inl ⟨rfl, actsAs_resolveRepeat_continues hr hg hc⟩
      | false => exact .inr ⟨rfl, actsAs_resolveRepeat_ends hslot hg hc⟩

/-! ### Ends still owed (R41 stage 5) -/

theorem owes_eq_of_running {c : Channel} (h : c.playback = .running) : c.owes = c.run.owed := if_pos h
theorem owes_eq_of_not_running {c : Channel} (h : c.playback ≠ .running) : c.owes = .nothing := if_neg h

theorem settle_nothing (h : (s.ch n).owes = .nothing) : settle n s = s := by simp only [settle, h]
theorem settle_repeatBoundary (h : (s.ch n).owes = .repeatBoundary) : settle n s = resolveRepeat n s := by
  simp only [settle, h]
theorem settle_streamEnd (h : (s.ch n).owes = .streamEnd) : settle n s = stepEnd n s := by
  simp only [settle, h]

theorem actsAs_settle_nothing (h : (s.ch n).owes = .nothing) : ActsAs n (settle n) s (s.ch n) [] :=
  actsAs_id.congr fun _ hu => settle_nothing (by rwa [hu.1])

/-- What resolving an end still owed can make of channel `n`, and its records. -/
inductive SettleOutcome (n : Ch) (s : State) : Channel → List Emission → Prop
  | kept : ((s.ch n).owes = .nothing ∨ (s.ch n).list[(s.ch n).run.step]? = none ∨
      ((s.ch n).owes = .repeatBoundary ∧ currentSegment n s = none)) → SettleOutcome n s (s.ch n) []
  | playsOn (t : Slot) (g : Segment) : (s.ch n).owes = .repeatBoundary →
      (s.ch n).list[(s.ch n).run.step]? = some t → currentSegment n s = some g →
      continues (s.ch n).run.leave t.record.repeats (s.ch n).run.repeatsLeft = true →
      SettleOutcome n s (playingOn t.record g (s.ch n)) []
  | repeatEnd (t : Slot) (g : Segment) : (s.ch n).owes = .repeatBoundary →
      (s.ch n).list[(s.ch n).run.step]? = some t → currentSegment n s = some g →
      continues (s.ch n).run.leave t.record.repeats (s.ch n).run.repeatsLeft = false →
      SettleOutcome n s (afterStepEnd t (repeatCounted t.record (s.ch n))) (endRecords n t (s.ch n))
  | streamEnd (t : Slot) : (s.ch n).owes = .streamEnd →
      (s.ch n).list[(s.ch n).run.step]? = some t →
      SettleOutcome n s (afterStepEnd t (s.ch n)) (endRecords n t (s.ch n))

/-- Resolving what is owed acts on its channel alone. -/
theorem actsAs_settle (n : Ch) (s : State) :
    ∃ c es, SettleOutcome n s c es ∧ ActsAs n (settle n) s c es := by
  cases h : (s.ch n).owes with
  | nothing => exact ⟨_, _, .kept (.inl h), actsAs_settle_nothing h⟩
  | repeatBoundary =>
    have hsettle : ∀ u, SameView n s u → settle n u = resolveRepeat n u := fun u hu =>
      settle_repeatBoundary (by rwa [hu.1])
    obtain ⟨hg, hact⟩ | ⟨t, g, hslot, hg, ⟨hc, hact⟩ | ⟨hc, hact⟩⟩ := resolveRepeat_cases n s
    · exact ⟨_, _, .kept (.inr (.inr ⟨h, hg⟩)), hact.congr hsettle⟩
    · exact ⟨_, _, .playsOn t g h hslot hg hc, hact.congr hsettle⟩
    · exact ⟨_, _, .repeatEnd t g h hslot hg hc, hact.congr hsettle⟩
  | streamEnd =>
    have hsettle : ∀ u, SameView n s u → settle n u = stepEnd n u := fun u hu =>
      settle_streamEnd (by rwa [hu.1])
    cases hslot : (s.ch n).list[(s.ch n).run.step]? with
    | none => exact ⟨_, _, .kept (.inr (.inl hslot)), (actsAs_stepEnd_none hslot).congr hsettle⟩
    | some t => exact ⟨_, _, .streamEnd t h hslot, (actsAs_stepEnd hslot).congr hsettle⟩

end StepEnd

end Sys2Proof.Machine

namespace Sys2Proof.Proofs

open Sys2Proof.Machine

/-- Settles O46: the jump table is the one of the statement, and the compare decides between its two outcomes. -/
theorem stepEndFollowsTheJump : Obligations.StepEndFollowsTheJump := by
  refine ⟨fun s n t h => ⟨fun hin => ⟨stepEnd_inside h hin, afterStepEnd_inside hin⟩,
    fun hout => ⟨stepEnd_beyond h hout, if_neg (Nat.not_lt.mpr hout)⟩⟩, fun s n hr => ⟨fun hp ho => ?_,
      fun hno => ?_⟩⟩
  all_goals rw [exec_moment s rfl, live_running hr]
  · exact congrArg _ (if_pos ((owes_eq_of_running hp).trans ho))
  · refine congrArg _ (if_neg ?_)
    by_cases hp : (s.ch n).playback = .running
    · rw [owes_eq_of_running hp]
      exact hno.resolve_left (not_not_intro hp)
    · rw [owes_eq_of_not_running hp]
      exact fun h => nomatch h

/-- Settles O45: the two outcomes of a repeat boundary that is owed. -/
theorem repeatBoundaryResolved : Obligations.RepeatBoundaryResolved := by
  intro s n hr
  refine ⟨fun hno => ?_, fun r id g hp ho hrec hsrc hg => ⟨fun hgo => ?_, fun hend => ?_⟩⟩
  all_goals rw [exec_moment s rfl, live_running hr]
  · refine congrArg _ (if_neg ?_)
    by_cases hp : (s.ch n).playback = .running
    · rw [owes_eq_of_running hp]
      exact hno.resolve_left (not_not_intro hp)
    · rw [owes_eq_of_not_running hp]
      exact fun h => nomatch h
  all_goals
    refine congrArg _ ((if_pos ((owes_eq_of_running hp).trans ho)).trans ?_)
    have hseg : currentSegment n s = some g := (currentSegment_memory hrec hsrc).trans hg
  · exact resolveRepeat_continues hrec hseg (continues_iff.mpr hgo)
  · exact resolveRepeat_ends hrec hseg (continues_eq_false_iff.mpr hend)

end Sys2Proof.Proofs
end

section
/-! PROOF. A boundary reached: ends still owed, the clock, step entry (R41 stage 1, R46, R49, R183, R184). -/

namespace Sys2Proof.Machine

/-! ### The pending set at step entry (R49, R135) -/

theorem cueIn_cueRemove (p : CueSet) (n q : Nat) :
    cueIn (cueRemove p n) q = (cueIn p q && decide (n ≠ q)) := by
  simp only [cueIn, cueRemove, BitVec.getLsbD_and, BitVec.getLsbD_not, BitVec.getLsbD_shiftLeft,
    BitVec.getLsbD_one]
  by_cases hq : q < 64
  · congr 1
    rw [Bool.eq_iff_iff]
    simp only [hq, decide_true, Bool.true_and, Bool.not_eq_true', Bool.and_eq_false_iff,
      decide_eq_false_iff_not, decide_eq_true_eq]
    simp only [Bool.not_eq_false', decide_eq_true_eq]
    omega
  · simp [BitVec.getLsbD_of_ge p q (by omega)]

theorem pendingHas_iff (p : CueSet) (o : Option Nat) :
    pendingHas p o = true ↔ ∃ q, o = some q ∧ cueIn p q = true := by
  cases o <;> simp [pendingHas]

theorem cueIn_useCue (p : CueSet) (o : Option Nat) (q : Nat) :
    cueIn (useCue p o) q = (cueIn p q && decide (o ≠ some q)) := by
  cases o with
  | none => simp [useCue]
  | some c => simp [useCue, cueIn_cueRemove]

/-- A step entered with this pending set waits for its wait cue (R49, R50). -/
def entryWaits (r : StepRecord) (p : CueSet) : Bool := r.wait.isSome && !pendingHas (useCue p r.leave) r.wait

theorem entryWaits_iff (r : StepRecord) (p : CueSet) : entryWaits r p = true ↔
    ∃ q, r.wait = some q ∧ ¬ (cueIn p q = true ∧ r.leave ≠ some q) := by
  cases hw : r.wait with
  | none => simp [entryWaits, hw]
  | some w =>
    simp only [entryWaits, hw, pendingHas, cueIn_useCue, Option.isSome_some, Bool.true_and,
      Option.some.injEq, exists_eq_left', Bool.not_eq_true', Bool.and_eq_false_iff, not_and_or,
      decide_eq_false_iff_not, Bool.not_eq_true]

/-- The pending set after step entry (R49, R135). -/
def entryPending (r : StepRecord) (p : CueSet) : CueSet :=
  if entryWaits r p then useCue p r.leave else useCue (useCue p r.leave) r.wait

theorem cueIn_entryPending (r : StepRecord) (p : CueSet) (q : Nat) : cueIn (entryPending r p) q =
    (cueIn p q && decide (r.leave ≠ some q) && decide (r.wait ≠ some q)) := by
  unfold entryPending
  split
  · next hw =>
    rw [cueIn_useCue]
    obtain ⟨w, hwait, hnot⟩ := (entryWaits_iff r p).mp hw
    by_cases hq : w = q
    · subst hq
      cases hin : (cueIn p w && decide (r.leave ≠ some w)) with
      | false => rfl
      | true => exact absurd (by simpa using hin) hnot
    · simp [hwait, hq]
  · rw [cueIn_useCue, cueIn_useCue]

theorem enterChannel_eq (idx : Nat) (r : StepRecord) (c : Channel) : enterChannel idx r c =
    { c with
      playback := .running
      pendingCues := entryPending r c.pendingCues
      run :=
        { start := .none, startAt := none, step := idx
          phase := if entryWaits r c.pendingCues then .waiting else playPhase r
          i := 0, f := 0, repeatsLeft := r.repeats, leave := pendingHas c.pendingCues r.leave
          markerLeft := (match r.marker with | some k => k.width | none => 0)
          consumed := 0, next := none, owed := .nothing } } := rfl

/-! ### Step entry as a stage of its channel (R49, R119) -/

section Entry

variable {n : Ch} {idx : Nat} {s : State} {t : Slot}

/-- The push of a step entered. -/
def entryPush (n : Ch) (idx : Nat) (r : StepRecord) : List Emission :=
  r.emit.toList.map fun cue => .push cue (.stepEmit n idx)

theorem enterStep_none (h : (s.ch n).list[idx]? = none) : enterStep n idx s = s := by
  simp only [enterStep, h]

theorem enterStep_some (h : (s.ch n).list[idx]? = some t) : enterStep n idx s =
    emitAll (entryPush n idx t.record) (s.setCh n (enterChannel idx t.record (s.ch n))) := by
  simp only [enterStep, h, entryPush]
  cases t.record.emit with
  | none => rfl
  | some cue =>
    simp only [pushOrDrop_ch]
    exact (emit_setCh (.push cue (.stepEmit n idx)) s n _).symm

theorem actsAs_enterStep (h : (s.ch n).list[idx]? = some t) :
    ActsAs n (enterStep n idx) s (enterChannel idx t.record (s.ch n)) (entryPush n idx t.record) := by
  intro u hu
  rw [← hu.1] at h ⊢
  exact enterStep_some h

theorem actsAs_enterStep_none (h : (s.ch n).list[idx]? = none) :
    ActsAs n (enterStep n idx) s (s.ch n) [] :=
  actsAs_id.congr fun _ hu => enterStep_none (by rwa [hu.1])

/-- The step named entered, or nothing with none named. -/
def enterAt (n : Ch) : Option Nat → State → State
  | some idx, s => enterStep n idx s
  | none, s => s

theorem entryStage_eq (n : Ch) (s : State) : entryStage n s = enterAt n (entryOf s.dev.counter (s.ch n)) s := by
  simp only [entryStage, entryOf, Bool.and_eq_true, decide_eq_true_eq, beq_iff_eq]
  by_cases h : (s.ch n).playback = .armed ∧ (s.ch n).run.startAt = some s.dev.counter
  · rw [if_pos h, if_pos h]
    rfl
  · rw [if_neg h, if_neg h]
    cases hp : (s.ch n).playback <;> cases hx : (s.ch n).run.next <;> rfl

/-- What entering the step named can make of channel `n`, and its push. -/
inductive EntryOutcome (n : Ch) (c : Channel) : Option Nat → Channel → List Emission → Prop
  | kept (o : Option Nat) : (∀ idx, o = some idx → c.list[idx]? = none) → EntryOutcome n c o c []
  | entered (idx : Nat) (t : Slot) : c.list[idx]? = some t →
      EntryOutcome n c (some idx) (enterChannel idx t.record c) (entryPush n idx t.record)

/-- Entry acts on its channel alone. -/
theorem actsAs_enterAt (n : Ch) (o : Option Nat) (s : State) :
    ∃ c es, EntryOutcome n (s.ch n) o c es ∧ ActsAs n (enterAt n o) s c es := by
  cases o with
  | none => exact ⟨_, _, .kept none (fun _ h => nomatch h), actsAs_id⟩
  | some idx =>
    cases h : (s.ch n).list[idx]? with
    | none =>
      refine ⟨_, _, .kept (some idx) (fun k hk => ?_), actsAs_enterStep_none h⟩
      rwa [← Option.some.inj hk]
    | some t => exact ⟨_, _, .entered idx t h, actsAs_enterStep h⟩

theorem actsAs_entryStage {c : Channel} {es : List Emission}
    (h : ActsAs n (enterAt n (entryOf s.dev.counter (s.ch n))) s c es) : ActsAs n (entryStage n) s c es :=
  h.congr fun u hu => by rw [entryStage_eq, hu.1, hu.2.2.2]

end Entry

/-! ### The boundary reached -/

theorem openBoundary_open {turns : List Ch} {s : State} (h : s.boundaryOpen = true) :
    openBoundary turns s = s := if_pos h

/-- The state in which every end still owed has been resolved. -/
def settled (turns : List Ch) (s : State) : State := eachCh (channelOrder turns) settle s

theorem settled_eq (turns : List Ch) (s : State) : ∃ c es,
    (∀ n, SettleOutcome n s (c n) (es n) ∧ ActsAs n (settle n) s (c n) (es n)) ∧
      settled turns s = emitAll ((channelOrder turns).flatMap es) (setAll (channelOrder turns) c s) ∧
      ∀ n, (settled turns s).ch n = c n := by
  choose c es h using fun n => actsAs_settle n s
  refine ⟨c, es, h, eachCh_actsAs (channelOrder_nodup turns) fun n _ => (h n).2, fun n => ?_⟩
  rw [settled, eachCh_actsAs_ch (channelOrder_nodup turns) fun n _ => (h n).2, if_pos (mem_channelOrder turns n)]

@[simp] theorem settled_dev (turns : List Ch) (s : State) : (settled turns s).dev = s.dev := by
  obtain ⟨c, es, -, heq, -⟩ := settled_eq turns s
  rw [heq, emitAll_dev, setAll_dev]

theorem settled_ch (turns : List Ch) (s : State) (n : Ch) : (settled turns s).ch n = (settle n s).ch n := by
  obtain ⟨c, es, hact, -, hch⟩ := settled_eq turns s
  rw [hch, (hact n).2.ch]

theorem settled_ch_of_not_running {turns : List Ch} {s : State} {n : Ch}
    (h : (s.ch n).playback ≠ .running) : (settled turns s).ch n = s.ch n := by
  rw [settled_ch, settle_nothing (owes_eq_of_not_running h)]

/-- The clock advanced, the entries still to come. -/
def clocked (turns : List Ch) (s : State) : State := (settled turns s).setDev (advanceClock s.dev)

theorem openBoundary_closed {turns : List Ch} {s : State} (h : s.boundaryOpen = false) :
    openBoundary turns s = (eachCh (channelOrder turns) entryStage (clocked turns s)).setOpen true := by
  rw [openBoundary, h, clocked, ← settled_dev turns s]
  rfl

@[simp] theorem advanceClock_counter (d : Device) : (advanceClock d).counter = d.counter + 1 := rfl

/-- The entries of a boundary, each by what the state before them all names. -/
theorem eachCh_entryStage (turns : List Ch) (s : State) :
    eachCh (channelOrder turns) entryStage s =
      eachCh (channelOrder turns) (fun n x => enterAt n (entryOf s.dev.counter (s.ch n)) x) s := by
  choose c es h using fun n => actsAs_enterAt n (entryOf s.dev.counter (s.ch n)) s
  rw [eachCh_actsAs (channelOrder_nodup turns) fun n _ => actsAs_entryStage (h n).2,
    eachCh_actsAs (channelOrder_nodup turns) fun n _ => (h n).2]

theorem entries_eq (turns : List Ch) (s : State) : ∃ c es,
    (∀ n, EntryOutcome n (s.ch n) (entryOf s.dev.counter (s.ch n)) (c n) (es n)) ∧
      eachCh (channelOrder turns) entryStage s =
        emitAll ((channelOrder turns).flatMap es) (setAll (channelOrder turns) c s) ∧
      ∀ n, (eachCh (channelOrder turns) entryStage s).ch n = c n := by
  choose c es h using fun n => actsAs_enterAt n (entryOf s.dev.counter (s.ch n)) s
  have hacts : ∀ n ∈ channelOrder turns, ActsAs n (entryStage n) s (c n) (es n) := fun n _ =>
    actsAs_entryStage (h n).2
  refine ⟨c, es, fun n => (h n).1, eachCh_actsAs (channelOrder_nodup turns) hacts, fun n => ?_⟩
  rw [eachCh_actsAs_ch (channelOrder_nodup turns) hacts, if_pos (mem_channelOrder turns n)]

theorem openBoundary_dev_closed {turns : List Ch} {s : State} (h : s.boundaryOpen = false) :
    (openBoundary turns s).dev = advanceClock s.dev := by
  obtain ⟨c, es, -, heq, -⟩ := entries_eq turns (clocked turns s)
  rw [openBoundary_closed h, heq, setOpen_dev, emitAll_dev, setAll_dev, clocked, setDev_dev]

@[simp] theorem openBoundary_boundaryOpen (turns : List Ch) (s : State) :
    (openBoundary turns s).boundaryOpen = true := by
  cases h : s.boundaryOpen with
  | true => rw [openBoundary_open h, h]
  | false => rw [openBoundary_closed h, setOpen_boundaryOpen]

@[simp] theorem openBoundary_resetHeld (turns : List Ch) (s : State) :
    (openBoundary turns s).resetHeld = s.resetHeld := by
  obtain ⟨-, -, -, -, hheld, -⟩ := sameOutside_openBoundary turns s
  exact hheld

theorem openBoundary_idem (turns turns' : List Ch) (s : State) :
    openBoundary turns (openBoundary turns' s) = openBoundary turns' s :=
  openBoundary_open (openBoundary_boundaryOpen turns' s)

theorem exec_sampleBoundary {s : State} (turns deferred : List Ch) (h : s.resetHeld = false) :
    exec (.sampleBoundary turns deferred) s = .next (sampleBoundary turns deferred s) :=
  congrArg _ (live_running h)

theorem sampleBoundary_opened (turns deferred : List Ch) (s : State) :
    sampleBoundary turns deferred (openBoundary turns s) = sampleBoundary turns deferred s := by
  simp only [sampleBoundary, openBoundary_idem]

/-! ### START_TIME_REACHED (R46) -/

theorem startTimeDue_iff {n : Ch} {s : State} : startTimeDue n s = true ↔
    s.boundaryOpen = false ∧ (s.ch n).playback = .armed ∧
      (s.ch n).run.startAt = some (s.dev.counter + 1) ∧ (s.ch n).run.start = .time (s.dev.counter + 1) := by
  simp only [startTimeDue, Bool.and_eq_true, Bool.not_eq_true', beq_iff_eq, and_assoc]

/-- What `settle` resolves is resolved by the two rows of a step end, in their order (R53, R55). -/
theorem streamLengthReached_repeatBoundary (n : Ch) (s : State) :
    streamLengthReached n (repeatBoundary n s) = settle n s := by
  unfold repeatBoundary
  split
  · next h =>
    rw [settle_repeatBoundary h]
    refine if_neg ?_
    obtain ⟨-, hact⟩ | ⟨t, g, -, -, ⟨-, hact⟩ | ⟨-, hact⟩⟩ := resolveRepeat_cases n s
    · rw [hact.ch, h]
      decide
    · rw [hact.ch]
      by_cases hp : (playingOn t.record g (s.ch n)).playback = .running
      · rw [owes_eq_of_running hp]
        exact fun hx => nomatch (show Owed.nothing = .streamEnd from hx)
      · rw [owes_eq_of_not_running hp]
        exact fun hx => nomatch hx
    · rw [hact.ch, afterStepEnd]
      split <;> simp [Channel.owes]
  · next h =>
    unfold streamLengthReached
    split
    · next h' => rw [settle_streamEnd h']
    · next h' =>
      refine (settle_nothing ?_).symm
      cases ho : (s.ch n).owes with
      | nothing => rfl
      | repeatBoundary => exact absurd ho h
      | streamEnd => exact absurd ho h'

end Sys2Proof.Machine

namespace Sys2Proof.Proofs

open Sys2Proof.Machine

/-- Settles O47: the boundary reached from its stages; step entry and the push by their equations. -/
theorem startTimeEntersStepZero : Obligations.StartTimeEntersStepZero := by
  refine ⟨fun s turns deferred hr => ⟨?once, fun ho => openBoundary_open ho, fun ho => ⟨?reached, ?counter,
    fun n => ⟨fun hp hst hat => ?due, fun hno => ?other⟩⟩, fun n ho => ?atOpen⟩, fun s n idx t h => ?entry,
    fun s cue src => ⟨pushOrDrop_of_merges, fun hm => ⟨pushOrDrop_of_full hm, pushOrDrop_of_room hm⟩⟩,
    fun s t n hr h => ?ends⟩
  case once =>
    rw [exec_sampleBoundary _ _ hr, exec_sampleBoundary _ _ ((openBoundary_resetHeld turns s).trans hr),
      sampleBoundary_opened]
  case reached =>
    rw [openBoundary_closed ho, eachCh_entryStage]
    refine congrArg (fun f => (eachCh (channelOrder turns) f (clocked turns s)).setOpen true)
      (funext fun n => funext fun x => ?_)
    change enterAt n (entryOf (s.dev.counter + 1) ((eachCh (channelOrder turns) settle s).ch n)) x = _
    generalize entryOf (s.dev.counter + 1) ((eachCh (channelOrder turns) settle s).ch n) = o
    cases o <;> rfl
  case counter => rw [openBoundary_dev_closed ho, advanceClock_counter]
  case due =>
    refine ⟨?_, ?_⟩
    · rw [exec_moment s rfl, live_running hr]
      exact congrArg _ (if_pos (startTimeDue_iff.mpr ⟨ho, hp, hat, hst⟩))
    · have hch : (eachCh (channelOrder turns) settle s).ch n = s.ch n :=
        settled_ch_of_not_running (by rw [hp]; decide)
      rw [hch]
      exact if_pos ⟨hp, hat⟩
  case other =>
    rw [exec_moment s rfl, live_running hr]
    refine congrArg _ (if_neg fun hdue => ?_)
    obtain ⟨-, hp, hat, hst⟩ := startTimeDue_iff.mp hdue
    obtain h | h | h := hno
    · exact h hp
    · exact h hst
    · exact h hat
  case atOpen =>
    rw [exec_moment s rfl, live_running hr]
    refine congrArg _ (if_neg fun hdue => ?_)
    obtain ⟨hclosed, -⟩ := startTimeDue_iff.mp hdue
    rw [ho] at hclosed
    cases hclosed
  case entry =>
    refine ⟨entryPending t.record (s.ch n).pendingCues, pendingHas (s.ch n).pendingCues t.record.leave,
      if entryWaits t.record (s.ch n).pendingCues then .waiting else playPhase t.record,
      cueIn_entryPending _ _, pendingHas_iff _ _, fun hw => if_pos ((entryWaits_iff _ _).mpr hw),
      fun hw => (if_neg (mt (entryWaits_iff _ _).mp hw)).trans ?_, ?_⟩
    · cases hsrc : t.record.source <;> simp only [playPhase, hsrc]
    · rw [enterStep_some h, emitAll_setCh, enterChannel_eq, entryPush]
      cases t.record.emit <;> rfl
  case ends =>
    rw [exec_moment s rfl, live_running hr] at h
    cases h
    have hr' : (repeatBoundary n s).resetHeld = false := by
      obtain ⟨-, -, -, -, hheld, -⟩ := momentOf_sameOutside (.repeatBoundary n) s
      exact hheld.trans hr
    rw [exec_moment _ rfl, momentOf, live_running hr']
    exact congrArg _ (streamLengthReached_repeatBoundary n s)

end Sys2Proof.Proofs
end

section
/-! PROOF. The records a boundary's stages enter, told channel by channel (R180, R181). -/

namespace Sys2Proof.Machine

/-! ### Records among the emissions -/

/-- The record an emission enters, with the counter at `now`; a push enters none. -/
def Emission.event (now : Counter) : Emission → Option Event
  | .record k c i v => some ⟨k, c, i, v, stampOf now⟩
  | .push _ _ => none

/-- The records emissions enter. -/
def told (now : Counter) (es : List Emission) : List Event := es.filterMap (Emission.event now)

/-- Every emission is a record about channel `n`. -/
def About (n : Ch) (es : List Emission) : Prop := ∀ e ∈ es, ∃ k i v, e = .record k (some n) i v

/-- Every emission is a record. -/
def Records (es : List Emission) : Prop := ∀ e ∈ es, ∃ k c i v, e = .record k c i v

theorem about_nil (n : Ch) : About n [] := fun _ h => absurd h List.not_mem_nil

theorem about_singleton (n : Ch) (k : EventKind) (i : Option Nat) (v : Option Word) :
    About n [.record k (some n) i v] := by
  intro e he
  rw [List.mem_singleton] at he
  exact ⟨k, i, v, he⟩

theorem About.append {n : Ch} {es es' : List Emission} (h : About n es) (h' : About n es') :
    About n (es ++ es') := fun e he => (List.mem_append.mp he).elim (h e) (h' e)

theorem About.of_ite {n : Ch} {p : Prop} [Decidable p] {es : List Emission} (h : About n es) :
    About n (if p then es else []) := by
  split
  · exact h
  · exact about_nil n

theorem records_flatMap {l : List Ch} {es : Ch → List Emission} (h : ∀ n ∈ l, About n (es n)) :
    Records (l.flatMap es) := by
  intro e he
  obtain ⟨n, hn, hen⟩ := List.mem_flatMap.mp he
  obtain ⟨k, i, v, rfl⟩ := h n hn e hen
  exact ⟨k, some n, i, v, rfl⟩

theorem told_append (now : Counter) (es es' : List Emission) :
    told now (es ++ es') = told now es ++ told now es' := List.filterMap_append

/-- A record about channel `n`, of kind `k`. -/
def isAbout (k : EventKind) (n : Ch) (e : Event) : Bool := decide (e.kind = k ∧ e.channel = some n)

theorem filter_told_about {now : Counter} {n : Ch} {es : List Emission} (h : About n es) (k : EventKind) :
    (told now es).filter (isAbout k n) = (told now es).filter (fun e => decide (e.kind = k)) := by
  refine List.filter_congr fun e he => ?_
  obtain ⟨x, hx, hex⟩ := List.mem_filterMap.mp he
  obtain ⟨k', i, v, rfl⟩ := h x hx
  cases hex
  simp [isAbout]

theorem filter_told_other {now : Counter} {m n : Ch} (hne : m ≠ n) {es : List Emission} (h : About m es)
    (k : EventKind) : (told now es).filter (isAbout k n) = [] := by
  refine List.filter_eq_nil_iff.mpr fun e he => ?_
  obtain ⟨x, hx, hex⟩ := List.mem_filterMap.mp he
  obtain ⟨k', i, v, rfl⟩ := h x hx
  cases hex
  simp [isAbout, hne]

/-- Among the records of several channels' stages, those about one channel are its own stage's. -/
theorem filter_told_flatMap {now : Counter} {l : List Ch} (hl : l.Nodup) {es : Ch → List Emission}
    (h : ∀ m ∈ l, About m (es m)) {n : Ch} (hn : n ∈ l) (k : EventKind) :
    (told now (l.flatMap es)).filter (isAbout k n) =
      (told now (es n)).filter (fun e => decide (e.kind = k)) := by
  have hothers : ∀ l' : List Ch, (∀ m ∈ l', About m (es m)) → n ∉ l' →
      (told now (l'.flatMap es)).filter (isAbout k n) = [] := by
    intro l' h' hn'
    induction l' with
    | nil => rfl
    | cons m l' ih =>
      rw [List.flatMap_cons, told_append, List.filter_append,
        filter_told_other (fun hm => hn' (by simp [hm])) (h' m (by simp)),
        ih (fun x hx => h' x (List.mem_cons_of_mem _ hx)) (fun hx => hn' (List.mem_cons_of_mem _ hx))]
      rfl
  induction l with
  | nil => exact absurd hn List.not_mem_nil
  | cons m l ih =>
    obtain ⟨hm, hl⟩ := List.nodup_cons.mp hl
    have htail := fun x hx => h x (List.mem_cons_of_mem m hx)
    rw [List.flatMap_cons, told_append, List.filter_append]
    by_cases hmn : m = n
    · subst hmn
      rw [hothers l htail hm, filter_told_about (h m (by simp)), List.append_nil]
    · rw [filter_told_other hmn (h m (by simp)), List.nil_append]
      exact ih hl htail ((List.mem_cons.mp hn).resolve_left (Ne.symm hmn))

/-! ### The queue after emissions -/

theorem offerEvent_lost {q : EventQueue} (h : q.lost = true) (e : Event) (mode : AttnMode) :
    (offerEvent e mode q).lost = true := by
  obtain ⟨-, he⟩ | ⟨-, -, he, -⟩ := offerEvent_cases e mode q
  · rw [he]
  · rw [he, h]

theorem offerEvent_prefix (e : Event) (mode : AttnMode) (q : EventQueue) :
    q.records <+: (offerEvent e mode q).records := by
  obtain ⟨-, he⟩ | ⟨-, he, -⟩ := offerEvent_cases e mode q
  · rw [he]
  · rw [he]
    exact List.prefix_append _ _

/-- An emission offers at most one record to the queue. -/
theorem emit_events_cases (e : Emission) (s : State) :
    (emit e s).events = s.events ∨ ∃ ev, (emit e s).events = offerEvent ev s.dev.attnMode s.events := by
  cases e with
  | record k c i v => exact .inr ⟨_, rfl⟩
  | push cue src =>
    obtain ⟨-, h⟩ | ⟨-, h⟩ := pushOrDrop_cases cue src s
    · exact .inr ⟨_, congrArg State.events h⟩
    · exact .inl ((congrArg State.events h).trans (pushCue_events cue src s))

theorem emitAll_lost {s : State} (h : s.events.lost = true) (es : List Emission) :
    (emitAll es s).events.lost = true := by
  induction es generalizing s with
  | nil => exact h
  | cons e es ih =>
    refine ih ?_
    obtain he | ⟨ev, he⟩ := emit_events_cases e s
    · rw [he, h]
    · rw [he]
      exact offerEvent_lost h _ _

theorem emitAll_prefix (es : List Emission) (s : State) :
    s.events.records <+: (emitAll es s).events.records := by
  induction es generalizing s with
  | nil => exact List.prefix_rfl
  | cons e es ih =>
    refine List.IsPrefix.trans ?_ (ih (emit e s))
    obtain he | ⟨ev, he⟩ := emit_events_cases e s
    · rw [he]
    · rw [he]
      exact offerEvent_prefix _ _ _

/-- Records are entered in their order until 32 are held; one too many is lost (R181). -/
theorem emitAll_events {es : List Emission} (h : Records es) (s : State) :
    (emitAll es s).events.records =
        s.events.records ++ (told s.dev.counter es).take (32 - s.events.records.length) ∧
      (32 - s.events.records.length < (told s.dev.counter es).length →
        (emitAll es s).events.lost = true) := by
  induction es generalizing s with
  | nil => simp [told]
  | cons e es ih =>
    obtain ⟨k, c, i, v, rfl⟩ := h e (by simp)
    have htold : told s.dev.counter (.record k c i v :: es) =
        ⟨k, c, i, v, stampOf s.dev.counter⟩ :: told s.dev.counter es := rfl
    have hes := ih (fun x hx => h x (List.mem_cons_of_mem _ hx)) (emit (.record k c i v) s)
    rw [emit_dev] at hes
    rw [emitAll_cons, htold]
    obtain ⟨hfull, he⟩ | ⟨hroom, he, -⟩ := offerEvent_cases ⟨k, c, i, v, stampOf s.dev.counter⟩ s.dev.attnMode
      s.events
    · have hevents : (emit (.record k c i v) s).events = { s.events with lost := true } := he
      simp only [hevents, Nat.sub_eq_zero_of_le hfull, List.take_zero, List.append_nil] at hes ⊢
      exact ⟨hes.1, fun _ => emitAll_lost (by rw [hevents]) es⟩
    · have hrecords : (emit (.record k c i v) s).events.records =
          s.events.records ++ [⟨k, c, i, v, stampOf s.dev.counter⟩] := he
      have hlen : 32 - s.events.records.length = (32 - (s.events.records.length + 1)) + 1 := by omega
      rw [hrecords, List.length_append, List.length_singleton, List.append_assoc] at hes
      rw [hlen, List.take_succ_cons]
      exact ⟨hes.1, fun hlt => hes.2 (by simpa using hlt)⟩

/-- The records about a channel that emissions enter, told as the statements tell them. -/
theorem tells_of_emitAll {es : List Emission} (h : Records es) {o u t : State} {k : EventKind} {n : Ch}
    {x : Option Event} (hu : u.events = o.events) (ht : t.events = (emitAll es u).events)
    (hx : (told u.dev.counter es).filter (isAbout k n) = x.toList) : Tells o t k n x := by
  obtain ⟨hrec, hlost⟩ := emitAll_events h u
  rw [hu] at hrec hlost
  have hgained : recordsOf o t k n =
      ((told u.dev.counter es).take (32 - o.events.records.length)).filter (isAbout k n) := by
    rw [recordsOf, ht, hrec, List.drop_left]
    rfl
  rw [Tells, hgained]
  by_cases hfits : (told u.dev.counter es).length ≤ 32 - o.events.records.length
  · rw [List.take_of_length_le hfits]
    exact .inl hx
  · have hsub : List.Sublist
        (((told u.dev.counter es).take (32 - o.events.records.length)).filter (isAbout k n)) x.toList :=
      hx ▸ (List.take_sublist _ _).filter _
    have hor : ((told u.dev.counter es).take (32 - o.events.records.length)).filter (isAbout k n) = x.toList ∨
        ((told u.dev.counter es).take (32 - o.events.records.length)).filter (isAbout k n) = [] := by
      cases x with
      | none => exact .inr (List.sublist_nil.mp hsub)
      | some e => exact (List.sublist_singleton.mp hsub).symm
    refine hor.imp_right fun hnil => ⟨hnil, ?_, ?_⟩
    · rw [ht]
      exact hlost (Nat.not_le.mp hfits)
    · rw [ht, hrec, List.length_append, List.length_take]
      omega

/-- The records one channel's stage enters among those of the others. -/
theorem tells_of_stages {l : List Ch} (hl : l.Nodup) {f : Ch → State → State} {u o t : State}
    {c : Ch → Channel} {es : Ch → List Emission} (hf : ∀ m ∈ l, ActsAs m (f m) u (c m) (es m))
    (habout : ∀ m ∈ l, About m (es m)) (hu : u.events = o.events)
    (ht : t.events = (eachCh l f u).events) {n : Ch} (hn : n ∈ l) {k : EventKind} {x : Option Event}
    (hx : (told u.dev.counter (es n)).filter (fun e => decide (e.kind = k)) = x.toList) :
    Tells o t k n x := by
  have hset : (setAll l c u).events = o.events := (setAll_events l c u).trans hu
  refine tells_of_emitAll (records_flatMap habout) hset (ht.trans ?_) ?_
  · rw [eachCh_actsAs hl hf]
  · rw [setAll_dev, filter_told_flatMap hl habout hn, hx]

theorem recordsOf_of_stages {l : List Ch} (hl : l.Nodup) {f : Ch → State → State} {u o t : State}
    {c : Ch → Channel} {es : Ch → List Emission} (hf : ∀ m ∈ l, ActsAs m (f m) u (c m) (es m))
    (habout : ∀ m ∈ l, About m (es m)) (hu : u.events = o.events)
    (ht : t.events = (eachCh l f u).events) {n : Ch} (hn : n ∈ l) {k : EventKind}
    (hx : (told u.dev.counter (es n)).filter (fun e => decide (e.kind = k)) = []) :
    recordsOf o t k n = [] :=
  (tells_of_stages hl hf habout hu ht hn (x := none) hx).elim id And.left

end Sys2Proof.Machine
end

section
/-! PROOF. Cues at their effective sample (R129, R130), priming (R51), the marker width's end (R59) and the divider
switch (R183). -/

namespace Sys2Proof.Machine

/-! ### The decisions of R130 as a stage of the channel -/

/-- What a cue can make of a channel, and the emissions that go with it (R130). -/
inductive CueTaken (cue : Nat) (n : Ch) (c : Channel) : Channel → List Emission → Prop
  | ignored : CueTaken cue n c c []
  | cleared : cue = 0 → c.playback = .idle → CueTaken cue n c { c with pendingCues := 0 } []
  | stopped : cue = 0 → c.playback ≠ .idle →
      CueTaken cue n c c.toIdle [.record .stopCue (some n) none none]
  | started (t : Slot) : c.playback = .armed → c.list[0]? = some t →
      CueTaken cue n c (enterChannel 0 t.record c) (entryPush n 0 t.record)
  | waitEnded (r : StepRecord) : c.playback = .running → c.run.phase = .waiting → c.record = some r →
      CueTaken cue n c (endWait r c) []
  | leaves : c.playback = .running → CueTaken cue n c { c with run := { c.run with leave := true } } []
  | kept : cue ≠ 0 → cueIn c.mask cue = true →
      CueTaken cue n c { c with pendingCues := cueAdd c.pendingCues cue } []

/-- A stage given by an equation that looks at nothing but the channel's view. -/
theorem actsAs_of_setCh {n : Ch} {f : State → State} {s : State} {c : Channel}
    (h : ∀ t, SameView n s t → f t = t.setCh n c) : ActsAs n f s c [] := h

theorem actsAs_takeCue (cue : Nat) (n : Ch) (s : State) :
    ∃ c es, CueTaken cue n (s.ch n) c es ∧ ActsAs n (takeCue cue n) s c es := by
  by_cases hcue : cue = 0
  · subst hcue
    by_cases hidle : (s.ch n).playback = .idle
    · refine ⟨_, _, .cleared rfl hidle, fun t ht => ?_⟩
      rw [← ht.1] at hidle ⊢
      exact takeCue_zero_of_idle hidle
    · refine ⟨_, _, .stopped rfl hidle, fun t ht => ?_⟩
      rw [← ht.1] at hidle ⊢
      exact takeCue_zero_of_not_idle hidle
  by_cases hstarts : (s.ch n).StartsOn cue
  · have hact : ∀ t, SameView n s t → takeCue cue n t = enterStep n 0 t := fun t ht =>
      takeCue_of_startsOn hcue (by rwa [ht.1])
    cases hslot : (s.ch n).list[0]? with
    | none => exact ⟨_, _, .ignored, (actsAs_enterStep_none hslot).congr hact⟩
    | some t => exact ⟨_, _, .started t hstarts.1 hslot, (actsAs_enterStep hslot).congr hact⟩
  by_cases hwaits : (s.ch n).WaitsOn cue
  · obtain ⟨hrun, hphase, r, hrec, -⟩ := id hwaits
    refine ⟨_, _, .waitEnded r hrun hphase hrec, actsAs_of_setCh fun t ht => ?_⟩
    rw [← ht.1] at hwaits hrec ⊢
    exact takeCue_of_waitsOn hcue hwaits hrec
  by_cases hleaves : (s.ch n).LeavesOn cue
  · refine ⟨_, _, .leaves hleaves.1, actsAs_of_setCh fun t ht => ?_⟩
    rw [← ht.1] at hwaits hleaves ⊢
    exact takeCue_of_leavesOn hcue hwaits hleaves
  cases hmask : cueIn (s.ch n).mask cue with
  | true =>
    refine ⟨_, _, .kept hcue hmask, actsAs_of_setCh fun t ht => ?_⟩
    rw [← ht.1] at hstarts hwaits hleaves hmask ⊢
    exact takeCue_kept hcue hstarts hwaits hleaves hmask
  | false =>
    refine ⟨_, _, .ignored, actsAs_id.congr fun t ht => ?_⟩
    rw [← ht.1] at hstarts hwaits hleaves hmask
    exact takeCue_ignored hcue hstarts hwaits hleaves hmask

/-- A cue offered to the four channels. -/
theorem applyCue_eq (turns : List Ch) (cue : Nat) (s : State) : ∃ c es,
    (∀ n, CueTaken cue n (s.ch n) (c n) (es n) ∧ ActsAs n (takeCue cue n) s (c n) (es n)) ∧
      applyCue turns cue s =
        emitAll ((channelOrder turns).flatMap es) (setAll (channelOrder turns) c s) := by
  choose c es h using fun n => actsAs_takeCue cue n s
  exact ⟨c, es, h, eachCh_actsAs (channelOrder_nodup turns) fun n _ => (h n).2⟩

/-! ### The delivery list -/

@[simp] theorem pushOrDrop_delivery (cue : Nat) (src : CueSource) (s : State) :
    (pushOrDrop cue src s).cue.delivery = s.cue.delivery := by
  obtain ⟨-, h⟩ | ⟨-, h⟩ := pushOrDrop_cases cue src s
  · rw [h]
    rfl
  · rw [h]
    obtain ⟨-, h⟩ | ⟨-, h⟩ := pushCue_cases cue src s <;> rw [h]
    rfl

@[simp] theorem emitAll_delivery (es : List Emission) (s : State) :
    (emitAll es s).cue.delivery = s.cue.delivery := by
  induction es generalizing s with
  | nil => rfl
  | cons e es ih =>
    rw [emitAll_cons, ih]
    cases e with
    | record k c i v => rfl
    | push cue src => exact pushOrDrop_delivery cue src s

@[simp] theorem settled_delivery (turns : List Ch) (s : State) :
    (settled turns s).cue.delivery = s.cue.delivery := by
  obtain ⟨c, es, -, heq, -⟩ := settled_eq turns s
  rw [heq, emitAll_delivery, setAll_cue]

@[simp] theorem openBoundary_delivery (turns : List Ch) (s : State) :
    (openBoundary turns s).cue.delivery = s.cue.delivery := by
  cases h : s.boundaryOpen with
  | true => rw [openBoundary_open h]
  | false =>
    obtain ⟨c, es, -, heq, -⟩ := entries_eq turns (clocked turns s)
    rw [openBoundary_closed h, heq, setOpen_cue, emitAll_delivery, setAll_cue]
    exact settled_delivery turns s

theorem applyCue_kept (turns : List Ch) (cue : Nat) (s : State) :
    (applyCue turns cue s).cue.delivery = s.cue.delivery ∧ (applyCue turns cue s).dev = s.dev ∧
      (applyCue turns cue s).boundaryOpen = s.boundaryOpen := by
  obtain ⟨c, es, -, heq⟩ := applyCue_eq turns cue s
  rw [heq]
  simp

/-! ### The first due entry (R127, R129) -/

theorem takeDue_eq_none {now : Counter} {l : List Delivery} (h : ∀ d ∈ l, d.effect ≠ now) :
    takeDue now l = none := by
  induction l with
  | nil => rfl
  | cons d l ih =>
    rw [takeDue, if_neg (h d (by simp)), ih fun x hx => h x (List.mem_cons_of_mem _ hx)]

theorem takeDue_split {now : Counter} {pre post : List Delivery} {cue : Nat}
    (h : ∀ d ∈ pre, d.effect ≠ now) :
    takeDue now (pre ++ ⟨cue, now⟩ :: post) = some (cue, pre ++ post) := by
  induction pre with
  | nil => exact if_pos rfl
  | cons d pre ih =>
    rw [List.cons_append, takeDue, if_neg (h d (by simp)), ih fun x hx => h x (List.mem_cons_of_mem _ hx)]
    rfl

theorem takeDue_length {now : Counter} {l rest : List Delivery} {cue : Nat}
    (h : takeDue now l = some (cue, rest)) : l.length = rest.length + 1 := by
  induction l generalizing rest with
  | nil => cases h
  | cons d l ih =>
    rw [takeDue] at h
    split at h
    · cases h
      rfl
    · split at h
      · cases h
      · next heq =>
        cases h
        rw [List.length_cons, List.length_cons, ih heq]

theorem takeDue_eq_none_iff {now : Counter} {l : List Delivery} :
    takeDue now l = none ↔ ∀ d ∈ l, d.effect ≠ now := by
  refine ⟨fun h => ?_, takeDue_eq_none⟩
  induction l with
  | nil => exact fun d hd => absurd hd List.not_mem_nil
  | cons d l ih =>
    rw [takeDue] at h
    split at h
    · cases h
    · next hne =>
      split at h
      · next heq => exact List.forall_mem_cons.mpr ⟨hne, ih heq⟩
      · cases h

section Due

variable {turns : List Ch} {s : State}

theorem applyFirstDue_none (h : takeDue s.dev.counter s.cue.delivery = none) : applyFirstDue turns s = s := by
  simp only [applyFirstDue, h]

theorem applyFirstDue_some {cue : Nat} {rest : List Delivery}
    (h : takeDue s.dev.counter s.cue.delivery = some (cue, rest)) :
    applyFirstDue turns s = applyCue turns cue (s.setCue { s.cue with delivery := rest }) := by
  simp only [applyFirstDue, h]

theorem applyDue_none (h : takeDue s.dev.counter s.cue.delivery = none) (fuel : Nat) :
    applyDue turns fuel s = s := by
  induction fuel with
  | zero => rfl
  | succ fuel ih => rw [applyDue, applyFirstDue_none h, ih]

/-- With no entry due the cue stage does nothing. -/
theorem cueStage_none (h : ∀ d ∈ s.cue.delivery, d.effect ≠ s.dev.counter) : cueStage turns s = s :=
  applyDue_none (takeDue_eq_none h) _

/-- The cue stage goes on from the first due entry. -/
theorem cueStage_applyFirstDue (turns : List Ch) (s : State) :
    cueStage turns (applyFirstDue turns s) = cueStage turns s := by
  cases h : takeDue s.dev.counter s.cue.delivery with
  | none => rw [applyFirstDue_none h]
  | some x =>
    obtain ⟨cue, rest⟩ := x
    have hlen : (applyFirstDue turns s).cue.delivery.length = rest.length := by
      rw [applyFirstDue_some h, (applyCue_kept ..).1, setCue_cue]
    rw [cueStage, cueStage, hlen, takeDue_length h, applyDue]

@[simp] theorem applyFirstDue_dev (turns : List Ch) (s : State) : (applyFirstDue turns s).dev = s.dev := by
  cases h : takeDue s.dev.counter s.cue.delivery with
  | none => rw [applyFirstDue_none h]
  | some x => rw [applyFirstDue_some h, (applyCue_kept ..).2.1, setCue_dev]

@[simp] theorem applyFirstDue_boundaryOpen (turns : List Ch) (s : State) :
    (applyFirstDue turns s).boundaryOpen = s.boundaryOpen := by
  cases h : takeDue s.dev.counter s.cue.delivery with
  | none => rw [applyFirstDue_none h]
  | some x => rw [applyFirstDue_some h, (applyCue_kept ..).2.2, setCue_boundaryOpen]

/-- After the cue stage no entry is due. -/
theorem takeDue_cueStage (turns : List Ch) (s : State) :
    takeDue s.dev.counter (cueStage turns s).cue.delivery = none := by
  suffices h : ∀ fuel s, s.cue.delivery.length ≤ fuel →
      takeDue s.dev.counter (applyDue turns fuel s).cue.delivery = none from h _ s le_rfl
  intro fuel
  induction fuel with
  | zero =>
    intro s hlen
    rw [applyDue, List.length_eq_zero_iff.mp (Nat.le_zero.mp hlen)]
    rfl
  | succ fuel ih =>
    intro s hlen
    rw [applyDue]
    cases h : takeDue s.dev.counter s.cue.delivery with
    | none => rw [applyFirstDue_none h, applyDue_none h, h]
    | some x =>
      obtain ⟨cue, rest⟩ := x
      have hshort := ih (applyFirstDue turns s) (by
        rw [applyFirstDue_some h, (applyCue_kept ..).1, setCue_cue]
        have := takeDue_length h
        change rest.length ≤ fuel
        omega)
      rwa [applyFirstDue_dev] at hshort

theorem applyDue_kept (turns : List Ch) (fuel : Nat) (s : State) :
    (applyDue turns fuel s).dev = s.dev ∧ (applyDue turns fuel s).boundaryOpen = s.boundaryOpen := by
  induction fuel generalizing s with
  | zero => exact ⟨rfl, rfl⟩
  | succ fuel ih =>
    rw [applyDue, (ih _).1, (ih _).2, applyFirstDue_dev, applyFirstDue_boundaryOpen]
    exact ⟨rfl, rfl⟩

@[simp] theorem cueStage_dev (turns : List Ch) (s : State) : (cueStage turns s).dev = s.dev :=
  (applyDue_kept turns _ s).1

@[simp] theorem cueStage_boundaryOpen (turns : List Ch) (s : State) :
    (cueStage turns s).boundaryOpen = s.boundaryOpen := (applyDue_kept turns _ s).2

/-- The boundary a cue would act at is the one that is open, or the one reached next. -/
theorem actingBoundary_eq (turns : List Ch) (s : State) :
    actingBoundary s = (openBoundary turns s).dev.counter := by
  cases h : s.boundaryOpen with
  | true => simp [actingBoundary, h, openBoundary_open h]
  | false => simp [actingBoundary, h, openBoundary_dev_closed h]

theorem cueEffectiveSample_none
    (h : ∀ d ∈ s.cue.delivery, d.effect ≠ (openBoundary turns s).dev.counter) :
    cueEffectiveSample turns s = s := by
  rw [cueEffectiveSample, actingBoundary_eq turns, takeDue_eq_none h]
  rfl

theorem cueEffectiveSample_due {x : Nat × List Delivery}
    (h : takeDue (openBoundary turns s).dev.counter s.cue.delivery = some x) :
    cueEffectiveSample turns s = applyFirstDue turns (openBoundary turns s) := by
  rw [cueEffectiveSample, actingBoundary_eq turns, h]
  rfl

end Due

/-- The boundary goes on from a cue stage begun. -/
theorem sampleBoundary_applyFirstDue (turns deferred : List Ch) (s : State) :
    sampleBoundary turns deferred (applyFirstDue turns (openBoundary turns s)) =
      sampleBoundary turns deferred s := by
  have hopen : (applyFirstDue turns (openBoundary turns s)).boundaryOpen = true := by simp
  simp only [sampleBoundary, openBoundary_open hopen, cueStage_applyFirstDue]

/-! ### The stop cue (R61, R130) -/

/-- The channel a stop cue leaves. -/
def stopOutcome (c : Channel) : Channel :=
  if c.playback = .idle then { c with pendingCues := 0 } else c.toIdle

/-- The record of a stop cue: none about an IDLE channel. -/
def stopRecords (n : Ch) (c : Channel) : List Emission :=
  if c.playback ≠ .idle then [.record .stopCue (some n) none none] else []

theorem actsAs_stopCue (n : Ch) (s : State) :
    ActsAs n (takeCue 0 n) s (stopOutcome (s.ch n)) (stopRecords n (s.ch n)) := by
  intro t ht
  rw [← ht.1, stopOutcome, stopRecords]
  by_cases hidle : (t.ch n).playback = .idle
  · rw [if_pos hidle, if_neg (not_not_intro hidle), takeCue_zero_of_idle hidle]
    rfl
  · rw [if_neg hidle, if_pos hidle, takeCue_zero_of_not_idle hidle]
    rfl

theorem about_stopRecords (n : Ch) (c : Channel) : About n (stopRecords n c) :=
  (about_singleton n _ _ _).of_ite

/-- Records alone leave the Cue Controller as it is. -/
theorem emitAll_cue_of_records {es : List Emission} (h : Records es) (s : State) :
    (emitAll es s).cue = s.cue := by
  induction es generalizing s with
  | nil => rfl
  | cons e es ih =>
    obtain ⟨k, c, i, v, rfl⟩ := h e (by simp)
    exact ih (fun x hx => h x (List.mem_cons_of_mem _ hx)) _

/-! ### Priming, the marker width's end, the divider switch -/

section Moments

variable {n : Ch} {turns : List Ch} {s : State}

theorem primed_iff (c : Channel) : primed c = true ↔
    c.playback = .running ∧ c.run.phase = .priming ∧ ∃ r, c.record = some r ∧
      min (r.length.getD 0 - c.run.consumed) c.settings.prime ≤ c.stream.fifo.length := by
  simp only [primed, Bool.and_eq_true, beq_iff_eq, and_assoc]
  cases c.record <;> simp

theorem primingStage_primed (h : primed (s.ch n) = true) :
    primingStage n s = s.setCh n { s.ch n with run := { (s.ch n).run with phase := .playing } } := if_pos h

theorem primingStage_unprimed (h : primed (s.ch n) = false) : primingStage n s = s := by
  simp [primingStage, h]

/-- The boundary up to its priming stage. -/
def toPriming (turns : List Ch) (s : State) : State := cueStage turns (openBoundary turns s)

theorem toPriming_atCodes (h : AtCodes (openBoundary turns s)) :
    toPriming turns s = openBoundary turns s := cueStage_none h.2

theorem primingMet_met (h : primed ((toPriming turns s).ch n) = true) :
    primingMet n turns s = primingStage n (toPriming turns s) := if_pos h

theorem primingMet_unmet (h : primed ((toPriming turns s).ch n) = false) : primingMet n turns s = s :=
  if_neg (Bool.eq_false_iff.mp h)

theorem markerSpent_iff (c : Channel) : markerSpent c = true ↔
    c.playback = .running ∧ c.run.phase = .playing ∧ c.run.markerLeft = 0 ∧
      ∃ r, c.record = some r ∧ r.marker ≠ none := by
  simp only [markerSpent, Bool.and_eq_true, beq_iff_eq, and_assoc]
  cases c.record <;> simp [Option.isSome_iff_ne_none]

theorem markerWidthEnd_spent (h : markerSpent ((openBoundary turns s).ch n) = true) :
    markerWidthEnd n turns s = (openBoundary turns s).setCh n
      { (openBoundary turns s).ch n with markers := {} } := if_pos h

theorem markerWidthEnd_other (h : markerSpent ((openBoundary turns s).ch n) = false) :
    markerWidthEnd n turns s = s := if_neg (Bool.eq_false_iff.mp h)

theorem switchDue_iff (d : Device) : switchDue d = true ↔ d.pendingDivider ≠ none ∧
    (d.refEdge = none ∨ ∃ e, d.refEdge = some e ∧ 256 ≤ e + d.divider ∧ d.zeroPassed = false) := by
  cases h : d.refEdge with
  | none => simp [switchDue_none h]
  | some c => simp [switchDue_some h]

theorem dividerSwitch_due (ho : s.boundaryOpen = false) (h : switchDue s.dev = true) :
    dividerSwitch turns s = openBoundary turns s := if_pos (by simp [ho, h])

theorem dividerSwitch_other (h : ¬ (s.boundaryOpen = false ∧ switchDue s.dev = true)) :
    dividerSwitch turns s = s := if_neg (by simpa using h)

theorem advanceClock_switch {d : Device} {x : Nat} (h : switchDue d = true) (hx : d.pendingDivider = some x) :
    advanceClock d = { d with
      counter := d.counter + 1, divider := x, pendingDivider := none, refEdge := some 0
      zeroPassed := false } := by
  simp only [advanceClock, nextEdge, h, hx, if_true, Option.getD_some]

end Moments

end Sys2Proof.Machine

namespace Sys2Proof.Proofs

open Sys2Proof.Machine

/-- Settles O48: each moment is met or not; a divider switch is a boundary at its edge. -/
theorem primingMarkerAndDivider : Obligations.PrimingMarkerAndDivider := by
  refine ⟨fun s n turns => ?_, fun s turns hr => ⟨fun d hdue hd => ?_, fun hdue => ?_⟩⟩
  · intro o c hr
    refine ⟨fun hat => ⟨fun hmet => ?_, fun hmet => ?_⟩, fun hspent => ?_, fun hspent => ?_⟩
    all_goals
      rw [exec_moment s rfl, live_running hr]
      refine congrArg _ ?_
    · have hprimed : primed ((toPriming turns s).ch n) = true := by
        rw [toPriming_atCodes hat]
        exact (primed_iff _).mpr hmet
      rw [momentOf, primingMet_met hprimed, primingStage_primed hprimed, toPriming_atCodes hat]
    · refine primingMet_unmet ?_
      rw [toPriming_atCodes hat, ← Bool.not_eq_true, primed_iff]
      exact hmet
    · exact markerWidthEnd_spent ((markerSpent_iff _).mpr hspent)
    · rw [← markerSpent_iff, Bool.not_eq_true] at hspent
      exact markerWidthEnd_other hspent
  all_goals rw [exec_moment s rfl, live_running hr]
  · obtain ⟨ho, hpend, hedge⟩ := hdue
    have hswitch : switchDue s.dev = true := (switchDue_iff _).mpr ⟨hpend, hedge⟩
    refine ⟨_, congrArg _ (dividerSwitch_due ho hswitch), sameOutside_openBoundary turns s,
      openBoundary_boundaryOpen turns s, ?_⟩
    rw [openBoundary_dev_closed ho, advanceClock_switch hswitch hd]
  · exact congrArg _ (dividerSwitch_other (by rwa [switchDue_iff]))

/-- Settles O49: the first due entry leaves the list and is offered to the four channels, each for itself. -/
theorem stopCueStopsEveryChannel : Obligations.StopCueStopsEveryChannel := by
  intro s turns deferred hr o
  refine ⟨fun hnone => ?_, fun pre post cue hsplit hpre => ?_⟩
  · rw [exec_moment s rfl, live_running hr]
    exact congrArg _ (cueEffectiveSample_none hnone)
  intro t
  have hdue : takeDue o.dev.counter s.cue.delivery = some (cue, pre ++ post) := by
    rw [hsplit]
    exact takeDue_split hpre
  have ht : applyFirstDue turns o = t :=
    applyFirstDue_some (by rw [openBoundary_delivery]; exact hdue)
  have htr : t.resetHeld = false := by
    obtain ⟨-, -, -, -, hheld, -⟩ := sameOutside_applyFirstDue turns o
    rw [ht] at hheld
    exact hheld.trans ((openBoundary_resetHeld turns s).trans hr)
  refine ⟨?told, ?goesOn, fun hcue => ?stop⟩
  case told =>
    rw [exec_moment s rfl, live_running hr, ← ht]
    exact congrArg _ (cueEffectiveSample_due hdue)
  case goesOn =>
    rw [exec_sampleBoundary _ _ hr, exec_sampleBoundary _ _ htr, ← ht, sampleBoundary_applyFirstDue]
  case stop =>
    subst hcue
    have hacts : ∀ n ∈ channelOrder turns, ActsAs n (takeCue 0 n)
        (o.setCue { o.cue with delivery := pre ++ post }) (stopOutcome (o.ch n)) (stopRecords n (o.ch n)) :=
      fun n _ => actsAs_stopCue n _
    have habout : ∀ n ∈ channelOrder turns, About n (stopRecords n (o.ch n)) := fun n _ =>
      about_stopRecords n _
    have heq : t = _ := eachCh_actsAs (channelOrder_nodup turns) hacts
    have hch : ∀ n, t.ch n = stopOutcome (o.ch n) := fun n =>
      (eachCh_actsAs_ch (channelOrder_nodup turns) hacts n).trans (if_pos (mem_channelOrder turns n))
    have hsame : SameOutside s t := by
      rw [← ht]
      exact sameOutside_trans (sameOutside_openBoundary turns s) (sameOutside_applyFirstDue turns o)
    refine ⟨hsame, ?_, ?_, ?_, ?_, fun n => ⟨fun hidle => ⟨?_, ?_⟩, fun hidle => ⟨?_, ?_⟩⟩⟩
    · rw [← ht, applyFirstDue_dev]
    · rw [← ht, applyFirstDue_boundaryOpen, openBoundary_boundaryOpen]
    · rw [heq, emitAll_cue_of_records (records_flatMap habout), setAll_cue, setCue_cue]
    · rw [heq]
      refine List.IsPrefix.trans ?_ (emitAll_prefix _ _)
      rw [setAll_events, setCue_events]
    · rw [hch, stopOutcome, if_pos hidle]
    · refine recordsOf_of_stages (channelOrder_nodup turns) hacts habout rfl rfl (mem_channelOrder turns n) ?_
      rw [stopRecords, if_neg (not_not_intro hidle)]
      rfl
    · rw [hch, stopOutcome, if_neg hidle]
      rfl
    · refine tells_of_stages (channelOrder_nodup turns) hacts habout rfl rfl (mem_channelOrder turns n) ?_
      rw [stopRecords, if_pos hidle]
      rfl

end Sys2Proof.Proofs
end

section
/-! PROOF. The code and advance stages as stages of their channel (R41 stages 4 and 5, R52, R55, R66 to R77, R90,
R93). -/

namespace Sys2Proof.Machine

/-! ### A played sample (R59, R66 to R73) -/

section Played

variable (n : Ch) (s : State)

/-- The records of the two flags, each where its flag goes from clear to set (R70, R72). -/
def flagRecords (n : Ch) (x : Formed) (c : Channel) : List Emission :=
  (if clips x = true ∧ c.clip = false then
      [.record .clip (some n) (some c.run.step) (some (signedWord x.u))] else []) ++
    if limits x = true ∧ c.limit = false then
      [.record .limit (some n) (some c.run.step) (some (signedWord x.d))] else []

/-- The channel that has presented a played sample, its position not yet advanced. -/
def playedChannel (r : StepRecord) (x : Formed) (c : Channel) : Channel :=
  presentOn x.c (playedMarkers r c) { c with clip := c.clip || clips x, limit := c.limit || limits x }

theorem actsAs_present (code : Int) (m : MarkerLevels) :
    ActsAs n (present n code m) s (presentOn code m (s.ch n)) [] :=
  actsAs_setCh fun _ ht => by rw [ht.1]

theorem actsAs_setClip (x : Formed) : ActsAs n (setClip n x) s { s.ch n with clip := (s.ch n).clip || clips x }
    (if clips x = true ∧ (s.ch n).clip = false then
      [.record .clip (some n) (some (s.ch n).run.step) (some (signedWord x.u))] else []) := by
  intro t ht
  rw [← ht.1]
  cases hx : clips x with
  | false =>
    simp only [setClip, hx, Bool.or_false, Bool.false_eq_true, false_and, if_false]
    exact (setCh_self t n).symm
  | true => cases hc : (t.ch n).clip <;> simp [setClip, hx, hc, emit]

theorem actsAs_setLimit (x : Formed) :
    ActsAs n (setLimit n x) s { s.ch n with limit := (s.ch n).limit || limits x }
    (if limits x = true ∧ (s.ch n).limit = false then
      [.record .limit (some n) (some (s.ch n).run.step) (some (signedWord x.d))] else []) := by
  intro t ht
  rw [← ht.1]
  cases hx : limits x with
  | false =>
    simp only [setLimit, hx, Bool.or_false, Bool.false_eq_true, false_and, if_false]
    exact (setCh_self t n).symm
  | true => cases hc : (t.ch n).limit <;> simp [setLimit, hx, hc, emit]

theorem formOn_congr {n : Ch} {s t : State} (h : SameView n s t) (r : StepRecord) (v : Int) :
    formOn n r v t = formOn n r v s := by
  simp only [formOn, h.1, h.2.2.1]

theorem actsAs_playValue (r : StepRecord) (v : Int) :
    ActsAs n (playValue n r v) s (playedChannel r (formOn n r v s) (s.ch n))
      (flagRecords n (formOn n r v s) (s.ch n)) := by
  have hall := ((actsAs_setClip n s (formOn n r v s)).andThen (actsAs_setLimit n _ (formOn n r v s))).andThen
    (actsAs_present n _ (formOn n r v s).c (playedMarkers r (s.ch n)))
  simp only [ch_setCh_same, List.append_nil] at hall
  exact hall.congr fun t ht => by rw [playValue, formOn_congr ht, ht.1]

/-- The record of a level that falls to the low mark (R91). -/
def lowRecords (n : Ch) (rest : List Sample) (c : Channel) : List Emission :=
  if c.settings.lowMark < c.stream.fifo.length ∧ rest.length ≤ c.settings.lowMark then
    [.record .streamLow (some n) (some c.run.step) (some (BitVec.ofNat 32 rest.length))] else []

/-- The channel whose head sample has been consumed. -/
def consumedChannel (rest : List Sample) (c : Channel) : Channel :=
  { c with stream := { c.stream with fifo := rest } }

theorem actsAs_consume (rest : List Sample) :
    ActsAs n (consume n rest) s (consumedChannel rest (s.ch n)) (lowRecords n rest (s.ch n)) := by
  intro t ht
  rw [← ht.1]
  simp only [consume, lowRecords, Bool.and_eq_true, decide_eq_true_eq]
  split <;> rfl

end Played

/-! ### A step end found (R41 stage 5; log entry 7) -/

/-- The channel that owes a step end. -/
def owing (why : Owed) (c : Channel) : Channel := { c with run := { c.run with owed := why } }

/-- A step end found: left owed by a deferred channel, resolved by any other. -/
inductive EndOutcome (deferred : List Ch) (n : Ch) (why : Owed) (s : State) : Channel → List Emission → Prop
  | owed : n ∈ deferred → EndOutcome deferred n why s (owing why (s.ch n)) []
  | resolved (c : Channel) (es : List Emission) : n ∉ deferred →
      SettleOutcome n (s.setCh n (owing why (s.ch n))) c es → EndOutcome deferred n why s c es

theorem actsAs_endFound (deferred : List Ch) (n : Ch) (why : Owed) (s : State) :
    ∃ c es, EndOutcome deferred n why s c es ∧ ActsAs n (endFound n why deferred) s c es := by
  have howing : ActsAs n (fun t => t.setCh n (owing why (t.ch n))) s (owing why (s.ch n)) [] :=
    actsAs_setCh fun t ht => by rw [ht.1]
  by_cases hn : n ∈ deferred
  · exact ⟨_, _, .owed hn, howing.congr fun t _ => if_pos hn⟩
  · obtain ⟨c, es, hout, hact⟩ := actsAs_settle n (s.setCh n (owing why (s.ch n)))
    refine ⟨c, es, .resolved c es hn hout, (howing.andThen hact).congr fun t _ => if_neg hn⟩

/-! ### The code and advance stages (R39, R52, R55) -/

/-- A RUNNING channel plays the step in slot `t`. -/
def Playing (c : Channel) (t : Slot) : Prop :=
  c.playback = .running ∧ c.run.phase = .playing ∧ c.list[c.run.step]? = some t

/-- The code a channel that plays nothing presents (R39, R74, R76). -/
def unplayedCode (c : Channel) : Int :=
  match c.playback with
  | .idle => c.settings.park
  | .done => if c.settings.endAction = .park then c.settings.park else c.hold
  | _ => c.hold

/-- What stages 2 to 6 make of a MEMORY step's value. -/
def memoryFormed (n : Ch) (s : State) (r : StepRecord) (g : Segment) : Formed :=
  formOn n r (memoryValue g (s.ch n).run.i (s.ch n).run.f s.mem.store) s

/-- The channel that has played a memory sample, its marker counted and its position not yet advanced. -/
def memoryPlayed (n : Ch) (s : State) (r : StepRecord) (g : Segment) : Channel :=
  countMarker (playedChannel r (memoryFormed n s r g) (s.ch n))

/-- The channel that has played a stream sample, its marker and the sample counted. -/
def streamPlayed (n : Ch) (s : State) (r : StepRecord) (x : Sample) (rest : List Sample) : Channel :=
  let c := countMarker (playedChannel r (formOn n r x.toInt s) (consumedChannel rest (s.ch n)))
  { c with run := { c.run with consumed := c.run.consumed + 1 } }

/-- The records of a stream sample played. -/
def streamRecords (n : Ch) (s : State) (r : StepRecord) (x : Sample) (rest : List Sample) : List Emission :=
  lowRecords n rest (s.ch n) ++ flagRecords n (formOn n r x.toInt s) (s.ch n)

/-- The shortfall of an underrun added to a channel's debt (R93). -/
def withDebt (short : Nat) (c : Channel) : Channel :=
  { c with stream := { c.stream with debt := min (c.stream.debt + short) Config.maxDebt } }

/-- What a boundary's code and advance make of channel `n`, and its records (R39, R52, R55, R66 to R77, R93). -/
inductive CodeOutcome (deferred : List Ch) (n : Ch) (s : State) : Channel → List Emission → Prop
  | unplayed : (∀ t, Playing (s.ch n) t →
        ∃ id, t.record.source = .memory id ∧ findSeg s.mem.segs id = none) →
      CodeOutcome deferred n s (presentOn (unplayedCode (s.ch n)) {} (s.ch n)) []
  | memoryOn (t : Slot) (id : Nat) (g : Segment) : Playing (s.ch n) t → t.record.source = .memory id →
      findSeg s.mem.segs id = some g →
      (advancePos (s.ch n).run.i (s.ch n).run.f t.record.rate).1 < g.play →
      CodeOutcome deferred n s { memoryPlayed n s t.record g with
        run := { (memoryPlayed n s t.record g).run with
          i := (advancePos (s.ch n).run.i (s.ch n).run.f t.record.rate).1
          f := (advancePos (s.ch n).run.i (s.ch n).run.f t.record.rate).2 } }
        (flagRecords n (memoryFormed n s t.record g) (s.ch n))
  | memoryEnd (t : Slot) (id : Nat) (g : Segment) (c : Channel) (es : List Emission) :
      Playing (s.ch n) t → t.record.source = .memory id → findSeg s.mem.segs id = some g →
      g.play ≤ (advancePos (s.ch n).run.i (s.ch n).run.f t.record.rate).1 →
      EndOutcome deferred n .repeatBoundary (s.setCh n (memoryPlayed n s t.record g)) c es →
      CodeOutcome deferred n s c (flagRecords n (memoryFormed n s t.record g) (s.ch n) ++ es)
  | streamOn (t : Slot) (x : Sample) (rest : List Sample) : Playing (s.ch n) t → t.record.source = .stream →
      (s.ch n).stream.fifo = x :: rest → (s.ch n).run.consumed + 1 < t.record.length.getD 0 →
      CodeOutcome deferred n s (streamPlayed n s t.record x rest) (streamRecords n s t.record x rest)
  | streamEnd (t : Slot) (x : Sample) (rest : List Sample) (c : Channel) (es : List Emission) :
      Playing (s.ch n) t → t.record.source = .stream → (s.ch n).stream.fifo = x :: rest →
      t.record.length.getD 0 ≤ (s.ch n).run.consumed + 1 →
      EndOutcome deferred n .streamEnd (s.setCh n (streamPlayed n s t.record x rest)) c es →
      CodeOutcome deferred n s c (streamRecords n s t.record x rest ++ es)
  | underrun (t : Slot) (c : Channel) (es : List Emission) : Playing (s.ch n) t →
      t.record.source = .stream → (s.ch n).stream.fifo = [] →
      EndOutcome deferred n .streamEnd (s.setCh n (presentOn (s.ch n).hold {} (s.ch n))) c es →
      CodeOutcome deferred n s (withDebt (t.record.length.getD 0 - (s.ch n).run.consumed) c)
        (es ++ [.record .streamUnderrun (some n) (some (s.ch n).run.step)
          (some (BitVec.ofNat 32 (t.record.length.getD 0 - (s.ch n).run.consumed)))])

section CodeStage

variable {deferred : List Ch} {n : Ch} {s : State} {t : Slot}

theorem playing_record {c : Channel} (h : Playing c t) : c.record = some t.record :=
  record_some_iff.mpr ⟨t, h.2.2, rfl⟩

theorem codeStage_playing (h : Playing (s.ch n) t) : codeStage deferred n s = playStep n t.record deferred s := by
  obtain ⟨hrun, hphase, -⟩ := id h
  simp only [codeStage, hrun, hphase, playing_record h]

theorem codeStage_unplayed (h : ∀ t, ¬ Playing (s.ch n) t) :
    codeStage deferred n s = present n (unplayedCode (s.ch n)) {} s := by
  unfold codeStage unplayedCode
  cases hp : (s.ch n).playback with
  | running =>
    cases hphase : (s.ch n).run.phase with
    | playing =>
      cases hrec : (s.ch n).record with
      | none => simp only [hp, hphase, hrec]
      | some r =>
        obtain ⟨t, hslot, -⟩ := record_some_iff.mp hrec
        exact absurd ⟨hp, hphase, hslot⟩ (h t)
    | waiting => simp only [hp, hphase]
    | priming => simp only [hp, hphase]
  | idle => simp only [hp]
  | armed => simp only [hp]
  | done => simp only [hp]

theorem playStep_noSegment {r : StepRecord} {id : Nat} (hsrc : r.source = .memory id)
    (hg : findSeg s.mem.segs id = none) : playStep n r deferred s = present n (s.ch n).hold {} s := by
  simp only [playStep, hsrc, hg]

theorem playStep_memory {r : StepRecord} {id : Nat} {g : Segment} (hsrc : r.source = .memory id)
    (hg : findSeg s.mem.segs id = some g) : playStep n r deferred s = advanceMemory n r g deferred
      (playValue n r (memoryValue g (s.ch n).run.i (s.ch n).run.f s.mem.store) s) := by
  simp only [playStep, hsrc, hg]

theorem playStep_underrun {r : StepRecord} (hsrc : r.source = .stream) (hf : (s.ch n).stream.fifo = []) :
    playStep n r deferred s = underrun n r deferred s := by
  simp only [playStep, hsrc, hf]

theorem playStep_stream {r : StepRecord} {x : Sample} {rest : List Sample} (hsrc : r.source = .stream)
    (hf : (s.ch n).stream.fifo = x :: rest) : playStep n r deferred s =
      advanceStream n r deferred (playValue n r x.toInt (consume n rest s)) := by
  simp only [playStep, hsrc, hf]

theorem playing_congr {u : State} (h : Playing (s.ch n) t) (hu : SameView n s u) : Playing (u.ch n) t := by
  rwa [hu.1]

/-- The advance of a memory step from the channel that has presented its sample. -/
theorem actsAs_advanceMemory_on {r : StepRecord} {g : Segment} {c : Channel}
    (h : (advancePos c.run.i c.run.f r.rate).1 < g.play) :
    ActsAs n (advanceMemory n r g deferred) (s.setCh n c)
      { countMarker c with run := { (countMarker c).run with
          i := (advancePos c.run.i c.run.f r.rate).1, f := (advancePos c.run.i c.run.f r.rate).2 } } [] := by
  intro u hu
  have hch : u.ch n = c := hu.1.trans (ch_setCh_same s n c)
  simp only [advanceMemory, hch]
  exact if_pos h

theorem actsAs_advanceMemory_end {r : StepRecord} {g : Segment} {c : Channel}
    (h : g.play ≤ (advancePos c.run.i c.run.f r.rate).1) : ∃ c' es,
    EndOutcome deferred n .repeatBoundary (s.setCh n (countMarker c)) c' es ∧
      ActsAs n (advanceMemory n r g deferred) (s.setCh n c) c' es := by
  obtain ⟨c', es, hout, hact⟩ := actsAs_endFound deferred n .repeatBoundary (s.setCh n (countMarker c))
  refine ⟨c', es, hout, ?_⟩
  have hcount : ActsAs n (fun t => t.setCh n (countMarker (t.ch n))) (s.setCh n c) (countMarker c) [] :=
    actsAs_setCh fun u hu => by rw [hu.1, ch_setCh_same]
  rw [← setCh_setCh s n c] at hact
  refine (hcount.andThen hact).congr fun u hu => ?_
  have hch : u.ch n = c := hu.1.trans (ch_setCh_same s n c)
  simp only [advanceMemory, hch]
  exact if_neg (Nat.not_lt.mpr h)

/-- The count of a stream sample from the channel that has presented it. -/
theorem actsAs_advanceStream {r : StepRecord} {c : Channel} :
    let c1 := { countMarker c with run := { (countMarker c).run with consumed := c.run.consumed + 1 } }
    (c.run.consumed + 1 < r.length.getD 0 → ActsAs n (advanceStream n r deferred) (s.setCh n c) c1 []) ∧
    (r.length.getD 0 ≤ c.run.consumed + 1 → ∃ c' es,
      EndOutcome deferred n .streamEnd (s.setCh n c1) c' es ∧
        ActsAs n (advanceStream n r deferred) (s.setCh n c) c' es) := by
  intro c1
  have hcount : ActsAs n (fun t => t.setCh n c1) (s.setCh n c) c1 [] := actsAs_setCh fun _ _ => rfl
  have hch : ∀ u, SameView n (s.setCh n c) u → u.ch n = c := fun u hu => hu.1.trans (ch_setCh_same s n c)
  refine ⟨fun h => hcount.congr fun u hu => ?_, fun h => ?_⟩
  · simp only [advanceStream, hch u hu]
    exact if_neg (Nat.not_le.mpr h)
  · obtain ⟨c', es, hout, hact⟩ := actsAs_endFound deferred n .streamEnd (s.setCh n c1)
    rw [← setCh_setCh s n c] at hact
    refine ⟨c', es, hout, (hcount.andThen hact).congr fun u hu => ?_⟩
    simp only [advanceStream, hch u hu]
    exact if_pos h

theorem actsAs_underrun {r : StepRecord} : ∃ c es,
    EndOutcome deferred n .streamEnd (s.setCh n (presentOn (s.ch n).hold {} (s.ch n))) c es ∧
      ActsAs n (underrun n r deferred) s (withDebt (r.length.getD 0 - (s.ch n).run.consumed) c)
        (es ++ [.record .streamUnderrun (some n) (some (s.ch n).run.step)
          (some (BitVec.ofNat 32 (r.length.getD 0 - (s.ch n).run.consumed)))]) := by
  obtain ⟨c, es, hout, hact⟩ :=
    actsAs_endFound deferred n .streamEnd (s.setCh n (presentOn (s.ch n).hold {} (s.ch n)))
  refine ⟨c, es, hout, ?_⟩
  have hpresent := actsAs_present n s (s.ch n).hold {}
  have hdebt : ActsAs n (fun t => t.setCh n (withDebt (r.length.getD 0 - (s.ch n).run.consumed) (t.ch n)))
      ((s.setCh n (presentOn (s.ch n).hold {} (s.ch n))).setCh n c)
      (withDebt (r.length.getD 0 - (s.ch n).run.consumed) c) [] :=
    actsAs_setCh fun u hu => by rw [hu.1, ch_setCh_same]
  have hall := (hpresent.andThen (hact.andThen hdebt)).andThen (actsAs_emit (n := n)
    (s := s.setCh n (withDebt (r.length.getD 0 - (s.ch n).run.consumed) c))
    (.record .streamUnderrun (some n) (some (s.ch n).run.step)
      (some (BitVec.ofNat 32 (r.length.getD 0 - (s.ch n).run.consumed)))))
  rw [ch_setCh_same, List.append_nil, List.nil_append] at hall
  refine hall.congr fun u hu => ?_
  simp only [underrun, hu.1]
  rfl

theorem actsAs_codeStage (deferred : List Ch) (n : Ch) (s : State) :
    ∃ c es, CodeOutcome deferred n s c es ∧ ActsAs n (codeStage deferred n) s c es := by
  have hview : ∀ {f : State → State}, (∀ u, SameView n s u → codeStage deferred n u = f u) →
      ∀ {c es}, ActsAs n f s c es → ActsAs n (codeStage deferred n) s c es := fun h _ _ hact => hact.congr h
  by_cases hplaying : ∃ t, Playing (s.ch n) t
  · obtain ⟨t, ht⟩ := hplaying
    have hstep : ∀ u, SameView n s u → codeStage deferred n u = playStep n t.record deferred u := fun u hu =>
      codeStage_playing (playing_congr ht hu)
    cases hsrc : t.record.source with
    | memory id =>
      cases hg : findSeg s.mem.segs id with
      | none =>
        have hcode : unplayedCode (s.ch n) = (s.ch n).hold := by simp only [unplayedCode, ht.1]
        refine ⟨_, _, .unplayed fun t' ht' => ?_, (actsAs_present n s _ {}).congr fun u hu => ?_⟩
        · obtain rfl : t = t' := Option.some.inj (ht.2.2.symm.trans ht'.2.2)
          exact ⟨id, hsrc, hg⟩
        · rw [hstep u hu, playStep_noSegment hsrc (by rwa [hu.2.1]), hu.1, hcode]
      | some g =>
        have hmem : ∀ u, SameView n s u → codeStage deferred n u = advanceMemory n t.record g deferred
            (playValue n t.record (memoryValue g (s.ch n).run.i (s.ch n).run.f s.mem.store) u) := by
          intro u hu
          rw [hstep u hu, playStep_memory hsrc (by rwa [hu.2.1]), hu.1, hu.2.1]
        have hplay := actsAs_playValue n s t.record
          (memoryValue g (s.ch n).run.i (s.ch n).run.f s.mem.store)
        by_cases hp : (advancePos (s.ch n).run.i (s.ch n).run.f t.record.rate).1 < g.play
        · refine ⟨_, _, .memoryOn t id g ht hsrc hg hp, hview hmem ?_⟩
          have hall := hplay.andThen (actsAs_advanceMemory_on (deferred := deferred) hp)
          rwa [List.append_nil] at hall
        · obtain ⟨c, es, hout, hact⟩ := actsAs_advanceMemory_end (s := s) (n := n) (deferred := deferred)
            (c := playedChannel t.record (memoryFormed n s t.record g) (s.ch n)) (Nat.not_lt.mp hp)
          exact ⟨_, _, .memoryEnd t id g c es ht hsrc hg (Nat.not_lt.mp hp) hout, hview hmem (hplay.andThen hact)⟩
    | stream =>
      cases hf : (s.ch n).stream.fifo with
      | nil =>
        obtain ⟨c, es, hout, hact⟩ := actsAs_underrun (s := s) (n := n) (deferred := deferred) (r := t.record)
        exact ⟨_, _, .underrun t c es ht hsrc hf hout, hview (fun u hu => by
          rw [hstep u hu, playStep_underrun hsrc (by rwa [hu.1])]) hact⟩
      | cons x rest =>
        have hstream : ∀ u, SameView n s u → codeStage deferred n u = advanceStream n t.record deferred
            (playValue n t.record x.toInt (consume n rest u)) := fun u hu => by
          rw [hstep u hu, playStep_stream hsrc (by rwa [hu.1])]
        have hplay := (actsAs_consume n s rest).andThen (actsAs_playValue n _ t.record x.toInt)
        have hform : formOn n t.record x.toInt (s.setCh n (consumedChannel rest (s.ch n))) =
            formOn n t.record x.toInt s := by
          simp only [formOn, ch_setCh_same, setCh_pr, consumedChannel]
        rw [ch_setCh_same, hform] at hplay
        obtain ⟨hon, hend⟩ := actsAs_advanceStream (s := s) (n := n) (deferred := deferred) (r := t.record)
          (c := playedChannel t.record (formOn n t.record x.toInt s) (consumedChannel rest (s.ch n)))
        by_cases hlen : (s.ch n).run.consumed + 1 < t.record.length.getD 0
        · refine ⟨_, _, .streamOn t x rest ht hsrc hf hlen, hview hstream ?_⟩
          have hall := hplay.andThen (hon hlen)
          rwa [List.append_nil] at hall
        · obtain ⟨c, es, hout, hact⟩ := hend (Nat.not_lt.mp hlen)
          exact ⟨_, _, .streamEnd t x rest c es ht hsrc hf (Nat.not_lt.mp hlen) hout,
            hview hstream (hplay.andThen hact)⟩
  · refine ⟨_, _, .unplayed fun t ht => absurd ⟨t, ht⟩ hplaying, (actsAs_present n s _ {}).congr fun u hu => ?_⟩
    rw [codeStage_unplayed fun t ht => hplaying ⟨t, by rwa [hu.1] at ht⟩, hu.1]

end CodeStage

end Sys2Proof.Machine
end

section
/-! PROOF. What one channel presents at a boundary, and the records about it: the codes that are not played
(R39, R74), memory samples (R52, R53, R66 to R72) and stream samples (R55, R90, R91, R93). -/

namespace Sys2Proof.Machine

/-! ### The boundary up to its code stage -/

theorem ActsAs.of_view {n : Ch} {f : State → State} {s t : State} {c : Channel} {es : List Emission}
    (h : ActsAs n f s c es) (ht : SameView n s t) : ActsAs n f t c es := by
  obtain ⟨hch, hmem, hpr, hdev⟩ := ht
  intro u hu
  obtain ⟨uch, umem, upr, udev⟩ := hu
  exact h u ⟨uch.trans hch, umem.trans hmem, upr.trans hpr, udev.trans hdev⟩

/-- The channel after its priming stage (R51). -/
def primedChannel (c : Channel) : Channel :=
  if primed c then { c with run := { c.run with phase := .playing } } else c

theorem actsAs_primingStage (n : Ch) (s : State) :
    ActsAs n (primingStage n) s (primedChannel (s.ch n)) [] := by
  intro t ht
  rw [← ht.1, primedChannel]
  cases h : primed (t.ch n) with
  | true => exact primingStage_primed h
  | false => exact (primingStage_unprimed h).trans (setCh_self t n).symm

/-- The boundary up to its code stage. -/
def toCodes (turns : List Ch) (s : State) : State := eachCh (channelOrder turns) primingStage (toPriming turns s)

theorem toCodes_eq (turns : List Ch) (s : State) : toCodes turns s =
    setAll (channelOrder turns) (fun n => primedChannel ((toPriming turns s).ch n)) (toPriming turns s) := by
  rw [toCodes, eachCh_actsAs (channelOrder_nodup turns) fun n _ => actsAs_primingStage n _,
    List.flatMap_eq_nil_iff.mpr fun _ _ => rfl]
  rfl

theorem toCodes_ch (turns : List Ch) (s : State) (n : Ch) :
    (toCodes turns s).ch n = primedChannel ((toPriming turns s).ch n) := by
  rw [toCodes_eq, setAll_ch (channelOrder_nodup turns), if_pos (mem_channelOrder turns n)]

theorem sampleBoundary_eq (turns deferred : List Ch) (s : State) : sampleBoundary turns deferred s =
    (eachCh (channelOrder turns) (codeStage deferred) (toCodes turns s)).setOpen false := rfl

/-- With no cue due, the code stage sees an unprimed channel as the boundary reached leaves it. -/
theorem toCodes_sameView {turns : List Ch} {s : State} {n : Ch} (hat : AtCodes (openBoundary turns s))
    (hprimed : primed ((openBoundary turns s).ch n) = false) :
    SameView n (openBoundary turns s) (toCodes turns s) := by
  have hpriming := toPriming_atCodes hat
  refine ⟨?_, ?_, ?_, ?_⟩
  · rw [toCodes_ch, hpriming, primedChannel, hprimed]
    rfl
  · rw [toCodes_eq, setAll_mem, hpriming]
  · obtain ⟨q, hq⟩ := setAll_fields (channelOrder turns)
      (fun n => primedChannel ((toPriming turns s).ch n)) (toPriming turns s)
    rw [toCodes_eq, hq, State.pr, hpriming]
    rfl
  · rw [toCodes_eq, setAll_dev, hpriming]

/-! ### The records of the code stage -/

theorem about_endRecords (n : Ch) (t : Slot) (c : Channel) : About n (endRecords n t c) :=
  (about_singleton n _ _ _).of_ite

theorem about_flagRecords (n : Ch) (x : Formed) (c : Channel) : About n (flagRecords n x c) :=
  (about_singleton n _ _ _).of_ite.append (about_singleton n _ _ _).of_ite

theorem about_lowRecords (n : Ch) (rest : List Sample) (c : Channel) : About n (lowRecords n rest c) :=
  (about_singleton n _ _ _).of_ite

theorem SettleOutcome.about {n : Ch} {s : State} {c : Channel} {es : List Emission}
    (h : SettleOutcome n s c es) : About n es := by
  cases h with
  | kept => exact about_nil n
  | playsOn => exact about_nil n
  | repeatEnd => exact about_endRecords n _ _
  | streamEnd => exact about_endRecords n _ _

theorem EndOutcome.about {deferred : List Ch} {n : Ch} {why : Owed} {s : State} {c : Channel}
    {es : List Emission} (h : EndOutcome deferred n why s c es) : About n es := by
  cases h with
  | owed => exact about_nil n
  | resolved _ _ _ hsettle => exact hsettle.about

theorem CodeOutcome.about {deferred : List Ch} {n : Ch} {s : State} {c : Channel} {es : List Emission}
    (h : CodeOutcome deferred n s c es) : About n es := by
  cases h with
  | unplayed => exact about_nil n
  | memoryOn => exact about_flagRecords n _ _
  | memoryEnd _ _ _ _ _ _ _ _ _ hend => exact (about_flagRecords n _ _).append hend.about
  | streamOn => exact (about_lowRecords n _ _).append (about_flagRecords n _ _)
  | streamEnd _ _ _ _ _ _ _ _ _ hend =>
    exact ((about_lowRecords n _ _).append (about_flagRecords n _ _)).append hend.about
  | underrun _ _ _ _ _ _ hend => exact hend.about.append (about_singleton n _ _ _)

/-- The records of a kind among emissions. -/
def toldOf (now : Counter) (k : EventKind) (es : List Emission) : List Event :=
  (told now es).filter (fun e => decide (e.kind = k))

section ToldOf

variable (now : Counter) (k : EventKind)

@[simp] theorem toldOf_nil : toldOf now k [] = [] := rfl

@[simp] theorem toldOf_append (es es' : List Emission) :
    toldOf now k (es ++ es') = toldOf now k es ++ toldOf now k es' := by
  rw [toldOf, told_append, List.filter_append]
  rfl

@[simp] theorem toldOf_record (k' : EventKind) (c : Option Ch) (i : Option Nat) (v : Option Word) :
    toldOf now k [.record k' c i v] = if k' = k then [⟨k', c, i, v, stampOf now⟩] else [] := by
  by_cases h : k' = k <;> simp [toldOf, told, Emission.event, h]

theorem toldOf_ite (p : Prop) [Decidable p] (es : List Emission) :
    toldOf now k (if p then es else []) = if p then toldOf now k es else [] := by
  split <;> rfl

end ToldOf

/-- A boundary with no cue due and a channel that does not begin to play at it: what becomes of the channel, and
the records about it. -/
theorem codes_told {turns deferred : List Ch} {s : State} {n : Ch} (hat : AtCodes (openBoundary turns s))
    (hprimed : primed ((openBoundary turns s).ch n) = false) :
    ∃ c es, CodeOutcome deferred n (openBoundary turns s) c es ∧ (sampleBoundary turns deferred s).ch n = c ∧
      ∀ k x, toldOf (openBoundary turns s).dev.counter k es = x.toList →
        Tells (openBoundary turns s) (sampleBoundary turns deferred s) k n x := by
  have hview := toCodes_sameView hat hprimed
  have hone : ∀ m, ∃ c es, (m = n → CodeOutcome deferred n (openBoundary turns s) c es) ∧ About m es ∧
      ActsAs m (codeStage deferred m) (toCodes turns s) c es := by
    intro m
    by_cases hm : m = n
    · subst hm
      obtain ⟨c, es, hout, hact⟩ := actsAs_codeStage deferred m (openBoundary turns s)
      exact ⟨c, es, fun _ => hout, hout.about, hact.of_view hview⟩
    · obtain ⟨c, es, hout, hact⟩ := actsAs_codeStage deferred m (toCodes turns s)
      exact ⟨c, es, fun h => absurd h hm, hout.about, hact⟩
  choose c es hout habout hact using hone
  have hevents : (toCodes turns s).events = (openBoundary turns s).events := by
    rw [toCodes_eq, setAll_events, toPriming_atCodes hat]
  refine ⟨c n, es n, hout n rfl, ?_, fun k x hx => ?_⟩
  · rw [sampleBoundary_eq, setOpen_ch,
      eachCh_actsAs_ch (channelOrder_nodup turns) (fun m _ => hact m), if_pos (mem_channelOrder turns n)]
  · refine tells_of_stages (channelOrder_nodup turns) (fun m _ => hact m) (fun m _ => habout m) hevents rfl
      (mem_channelOrder turns n) ?_
    rw [hview.2.2.2]
    exact hx

/-! ### Codes that are not played samples -/

/-- A channel that plays nothing presents its park, hold or end code, and nothing about it is told. -/
theorem codes_unplayed {turns deferred : List Ch} {s : State} {n : Ch}
    (hat : AtCodes (openBoundary turns s)) (hprimed : primed ((openBoundary turns s).ch n) = false)
    (hplays : ∀ t, ¬ Playing ((openBoundary turns s).ch n) t) :
    (sampleBoundary turns deferred s).ch n = presenting (unplayedCode ((openBoundary turns s).ch n))
        ⟨false, false⟩ ((openBoundary turns s).ch n) ∧
      ∀ k, recordsOf (openBoundary turns s) (sampleBoundary turns deferred s) k n = [] := by
  obtain ⟨c, es, hout, hch, htells⟩ := codes_told (deferred := deferred) hat hprimed
  cases hout with
  | unplayed =>
    exact ⟨hch, fun k => (htells k none rfl).elim id And.left⟩
  | memoryOn t _ _ h => exact absurd h (hplays t)
  | memoryEnd t _ _ _ _ h => exact absurd h (hplays t)
  | streamOn t _ _ h => exact absurd h (hplays t)
  | streamEnd t _ _ _ _ h => exact absurd h (hplays t)
  | underrun t _ _ h => exact absurd h (hplays t)

/-! ### The value formed (R66 to R72) -/

section Formed

variable {n : Ch} {s : State} {r : StepRecord} {v : Int}

theorem formOn_u : (formOn n r v s).u = ⌊((v * r.gain + 8192 : Int) : ℚ) / 16384⌋ + r.offset :=
  congrArg (· + r.offset) (applyGain_eq_floor v r.gain)

theorem formOn_d : (formOn n r v s).d = if (s.pr n).state = .derated then (saturate (formOn n r v s).u).tdiv 4
    else saturate (formOn n r v s).u := rfl

theorem formOn_c : (formOn n r v s).c =
    clamp (formOn n r v s).d (s.ch n).settings.lmin (s.ch n).settings.lmax := rfl

theorem clips_eq (x : Formed) : clips x = decide (saturate x.u ≠ x.u) := by
  simp [clips, bne, beq_eq_decide]

theorem limits_eq (x : Formed) : limits x = decide (x.c ≠ x.d) := by
  simp [limits, bne, beq_eq_decide]

theorem toldOf_flagRecords (now : Counter) (n : Ch) (x : Formed) (c : Channel) :
    toldOf now .clip (flagRecords n x c) = (if saturate x.u ≠ x.u ∧ c.clip = false then
      some ⟨.clip, some n, some c.run.step, some (signedWord x.u), stampOf now⟩ else none).toList ∧
    toldOf now .limit (flagRecords n x c) = (if x.c ≠ x.d ∧ c.limit = false then
      some ⟨.limit, some n, some c.run.step, some (signedWord x.d), stampOf now⟩ else none).toList := by
  simp only [flagRecords, toldOf_append, toldOf_ite, toldOf_record, clips_eq, limits_eq, decide_eq_true_eq]
  refine ⟨?_, ?_⟩
  · by_cases h : saturate x.u ≠ x.u ∧ c.clip = false <;> simp [h]
  · by_cases h : x.c ≠ x.d ∧ c.limit = false <;> simp [h]

theorem toldOf_flagRecords_other (now : Counter) (n : Ch) (x : Formed) (c : Channel) {k : EventKind}
    (hclip : k ≠ .clip) (hlimit : k ≠ .limit) : toldOf now k (flagRecords n x c) = [] := by
  simp only [flagRecords, toldOf_append, toldOf_ite, toldOf_record, if_neg hclip.symm, if_neg hlimit.symm,
    ite_self, List.append_nil]

theorem toldOf_endRecords (now : Counter) (n : Ch) (t : Slot) (c : Channel) :
    toldOf now .seqDone (endRecords n t c) = (if c.list.length ≤ nextIndex t c.run.step then
      some ⟨.seqDone, some n, some c.run.step, none, stampOf now⟩ else none).toList := by
  simp only [endRecords, toldOf_ite, toldOf_record, if_true]
  split <;> rfl

theorem toldOf_endRecords_other (now : Counter) (n : Ch) (t : Slot) (c : Channel) {k : EventKind}
    (hk : k ≠ .seqDone) : toldOf now k (endRecords n t c) = [] := by
  simp only [endRecords, toldOf_ite, toldOf_record, if_neg hk.symm, ite_self]

theorem toldOf_lowRecords (now : Counter) (n : Ch) (rest : List Sample) (c : Channel) :
    toldOf now .streamLow (lowRecords n rest c) =
      (if c.settings.lowMark < c.stream.fifo.length ∧ rest.length ≤ c.settings.lowMark then
        some ⟨.streamLow, some n, some c.run.step, some (BitVec.ofNat 32 rest.length), stampOf now⟩
      else none).toList := by
  simp only [lowRecords, toldOf_ite, toldOf_record, if_true]
  split <;> rfl

theorem toldOf_lowRecords_other (now : Counter) (n : Ch) (rest : List Sample) (c : Channel) {k : EventKind}
    (hk : k ≠ .streamLow) : toldOf now k (lowRecords n rest c) = [] := by
  simp only [lowRecords, toldOf_ite, toldOf_record, if_neg hk.symm, ite_self]

end Formed

/-! ### The step end found at a boundary -/

section EndFound

variable {deferred : List Ch} {n : Ch} {s : State} {c : Channel} {es : List Emission} {t : Slot} {g : Segment}

/-- The end of a memory step's pass: left owed, the step plays on, or it ends. -/
theorem EndOutcome.repeatBoundary (h : EndOutcome deferred n .repeatBoundary s c es)
    (hrun : (s.ch n).playback = .running) (hslot : (s.ch n).list[(s.ch n).run.step]? = some t)
    (hg : currentSegment n s = some g) :
    (n ∈ deferred ∧ c = owing .repeatBoundary (s.ch n) ∧ es = []) ∨
    (n ∉ deferred ∧ continues (s.ch n).run.leave t.record.repeats (s.ch n).run.repeatsLeft = true ∧
      c = playingOn t.record g (s.ch n) ∧ es = []) ∨
    (n ∉ deferred ∧ continues (s.ch n).run.leave t.record.repeats (s.ch n).run.repeatsLeft = false ∧
      c = afterStepEnd t (repeatCounted t.record (s.ch n)) ∧ es = endRecords n t (s.ch n)) := by
  cases h with
  | owed hn => exact .inl ⟨hn, rfl, rfl⟩
  | resolved _ _ hn hsettle =>
    right
    have hch := ch_setCh_same s n (owing .repeatBoundary (s.ch n))
    have hslot' : ((s.setCh n (owing .repeatBoundary (s.ch n))).ch n).list[
        ((s.setCh n (owing .repeatBoundary (s.ch n))).ch n).run.step]? = some t := by
      rw [hch]
      exact hslot
    have hg' : currentSegment n (s.setCh n (owing .repeatBoundary (s.ch n))) = some g := by
      rw [← hg, currentSegment, currentSegment, hch]
      rfl
    have howes : ((s.setCh n (owing .repeatBoundary (s.ch n))).ch n).owes = .repeatBoundary := by
      rw [hch]
      exact owes_eq_of_running hrun
    cases hsettle with
    | kept hno =>
      rw [howes, hslot', hg'] at hno
      simp at hno
    | playsOn t' g' _ ht' hseg hc =>
      cases Option.some.inj (hslot'.symm.trans ht')
      cases Option.some.inj (hg'.symm.trans hseg)
      rw [hch] at hc ⊢
      exact .inl ⟨hn, hc, rfl, rfl⟩
    | repeatEnd t' g' _ ht' hseg hc =>
      cases Option.some.inj (hslot'.symm.trans ht')
      rw [hch] at hc ⊢
      exact .inr ⟨hn, hc, rfl, rfl⟩
    | streamEnd t' ho =>
      rw [howes] at ho
      cases ho

/-- A stream step's end: left owed, or the step end. -/
theorem EndOutcome.streamEnd (h : EndOutcome deferred n .streamEnd s c es)
    (hrun : (s.ch n).playback = .running) (hslot : (s.ch n).list[(s.ch n).run.step]? = some t) :
    (n ∈ deferred ∧ c = owing .streamEnd (s.ch n) ∧ es = []) ∨
    (n ∉ deferred ∧ c = afterStepEnd t (s.ch n) ∧ es = endRecords n t (s.ch n)) := by
  cases h with
  | owed hn => exact .inl ⟨hn, rfl, rfl⟩
  | resolved _ _ hn hsettle =>
    right
    have hch := ch_setCh_same s n (owing .streamEnd (s.ch n))
    have hslot' : ((s.setCh n (owing .streamEnd (s.ch n))).ch n).list[
        ((s.setCh n (owing .streamEnd (s.ch n))).ch n).run.step]? = some t := by
      rw [hch]
      exact hslot
    have howes : ((s.setCh n (owing .streamEnd (s.ch n))).ch n).owes = .streamEnd := by
      rw [hch]
      exact owes_eq_of_running hrun
    cases hsettle with
    | kept hno =>
      rw [howes, hslot'] at hno
      simp at hno
    | playsOn t' g' ho =>
      rw [howes] at ho
      cases ho
    | repeatEnd t' g' ho =>
      rw [howes] at ho
      cases ho
    | streamEnd t' _ ht' =>
      cases Option.some.inj (hslot'.symm.trans ht')
      rw [hch]
      exact ⟨hn, rfl, rfl⟩

end EndFound

/-! ### A played sample as the statements write it -/

section AsStated

variable {deferred : List Ch} {n : Ch} {s : State} {slot : Slot} {g : Segment} {c : Channel}
  {es : List Emission}

/-- The channel that has presented a played sample of channel `c`, with run record `run`. -/
def presented (r : StepRecord) (x : Formed) (c : Channel) (run : RunRecord) : Channel :=
  { presenting x.c (playedMarkers r c) c with
    run := run
    clip := c.clip || clips x
    limit := c.limit || limits x }

/-- A memory step at a boundary, in the three ways it can go on. -/
theorem CodeOutcome.memory (h : CodeOutcome deferred n s c es) (hplay : Playing (s.ch n) slot) {seg : Nat}
    (hsrc : slot.record.source = .memory seg) (hg : findSeg s.mem.segs seg = some g) :
    let x := memoryFormed n s slot.record g
    let flags := flagRecords n x (s.ch n)
    let played := presented slot.record x (s.ch n)
    let p := advancePos (s.ch n).run.i (s.ch n).run.f slot.record.rate
    let run := (countMarker (s.ch n)).run
    let left := repeatsAfter slot.record.repeats (s.ch n).run.repeatsLeft
    let goesOn := continues (s.ch n).run.leave slot.record.repeats (s.ch n).run.repeatsLeft
    (p.1 < g.play ∧ c = played { run with i := p.1, f := p.2 } ∧ es = flags) ∨
    (g.play ≤ p.1 ∧ n ∈ deferred ∧ c = played { run with owed := .repeatBoundary } ∧ es = flags) ∨
    (g.play ≤ p.1 ∧ n ∉ deferred ∧ goesOn = true ∧
      c = played { run with i := p.1 - g.play, f := p.2, repeatsLeft := left, owed := .nothing } ∧
      es = flags) ∨
    (g.play ≤ p.1 ∧ n ∉ deferred ∧ goesOn = false ∧
      c = afterStepEnd slot (played { run with repeatsLeft := left }) ∧
      es = flags ++ endRecords n slot (s.ch n)) := by
  obtain ⟨hrun, -, hslot⟩ := id hplay
  have hsame : ∀ t, Playing (s.ch n) t → t = slot := fun t ht => Option.some.inj (ht.2.2.symm.trans hslot)
  intro x flags played p run left goesOn
  cases h with
  | unplayed hno =>
    obtain ⟨id', hsrc', hnone⟩ := hno slot hplay
    rw [hsrc] at hsrc'
    cases hsrc'
    rw [hg] at hnone
    cases hnone
  | memoryOn t id' g' ht hsrc' hg' hp =>
    obtain rfl := hsame t ht
    cases hsrc.symm.trans hsrc'
    cases Option.some.inj (hg.symm.trans hg')
    exact .inl ⟨hp, rfl, rfl⟩
  | memoryEnd t id' g' _ es' ht hsrc' hg' hp hend =>
    obtain rfl := hsame t ht
    cases hsrc.symm.trans hsrc'
    cases Option.some.inj (hg.symm.trans hg')
    have hch := ch_setCh_same s n (memoryPlayed n s t.record g)
    have hseg : currentSegment n (s.setCh n (memoryPlayed n s t.record g)) = some g := by
      rw [← hg]
      refine currentSegment_memory (r := t.record) ?_ hsrc
      rw [hch]
      exact playing_record hplay
    have hends := hend.repeatBoundary (t := t) (g := g) (by rw [hch]; exact hrun) (by rw [hch]; exact hslot) hseg
    rw [hch] at hends
    obtain ⟨hn, rfl, rfl⟩ | ⟨hn, hc, rfl, rfl⟩ | ⟨hn, hc, rfl, rfl⟩ := hends
    · exact .inr (.inl ⟨hp, hn, rfl, List.append_nil _⟩)
    · exact .inr (.inr (.inl ⟨hp, hn, hc, rfl, List.append_nil _⟩))
    · exact .inr (.inr (.inr ⟨hp, hn, hc, rfl, rfl⟩))
  | streamOn t _ _ ht hsrc' =>
    obtain rfl := hsame t ht
    cases hsrc.symm.trans hsrc'
  | streamEnd t _ _ _ _ ht hsrc' =>
    obtain rfl := hsame t ht
    cases hsrc.symm.trans hsrc'
  | underrun t _ _ ht hsrc' =>
    obtain rfl := hsame t ht
    cases hsrc.symm.trans hsrc'

/-- The channel that has presented a stream sample of channel `c`, with run record `run` and the rest held. -/
def streamPresented (r : StepRecord) (x : Formed) (rest : List Sample) (c : Channel) (run : RunRecord) : Channel :=
  { presented r x c run with stream := ⟨rest, c.stream.debt⟩ }

/-- A stream step with a sample held at a boundary, in the three ways it can go on. -/
theorem CodeOutcome.stream (h : CodeOutcome deferred n s c es) (hplay : Playing (s.ch n) slot)
    (hsrc : slot.record.source = .stream) {a : Sample} {rest : List Sample}
    (hf : (s.ch n).stream.fifo = a :: rest) :
    let x := formOn n slot.record a.toInt s
    let records := lowRecords n rest (s.ch n) ++ flagRecords n x (s.ch n)
    let played := streamPresented slot.record x rest (s.ch n)
    let run := { (countMarker (s.ch n)).run with consumed := (s.ch n).run.consumed + 1 }
    ((s.ch n).run.consumed + 1 < slot.record.length.getD 0 ∧ c = played run ∧ es = records) ∨
    (slot.record.length.getD 0 ≤ (s.ch n).run.consumed + 1 ∧ n ∈ deferred ∧
      c = played { run with owed := .streamEnd } ∧ es = records) ∨
    (slot.record.length.getD 0 ≤ (s.ch n).run.consumed + 1 ∧ n ∉ deferred ∧
      c = afterStepEnd slot (played run) ∧ es = records ++ endRecords n slot (s.ch n)) := by
  obtain ⟨hrun, -, hslot⟩ := id hplay
  have hsame : ∀ t, Playing (s.ch n) t → t = slot := fun t ht => Option.some.inj (ht.2.2.symm.trans hslot)
  intro x records played run
  cases h with
  | unplayed hno =>
    obtain ⟨id', hsrc', -⟩ := hno slot hplay
    cases hsrc.symm.trans hsrc'
  | memoryOn t _ _ ht hsrc' =>
    obtain rfl := hsame t ht
    cases hsrc.symm.trans hsrc'
  | memoryEnd t _ _ _ _ ht hsrc' =>
    obtain rfl := hsame t ht
    cases hsrc.symm.trans hsrc'
  | streamOn t a' rest' ht _ hf' hlen =>
    obtain rfl := hsame t ht
    cases hf.symm.trans hf'
    exact .inl ⟨hlen, rfl, rfl⟩
  | streamEnd t a' rest' _ es' ht _ hf' hlen hend =>
    obtain rfl := hsame t ht
    cases hf.symm.trans hf'
    have hch := ch_setCh_same s n (streamPlayed n s t.record a rest)
    have hends := hend.streamEnd (t := t) (by rw [hch]; exact hrun) (by rw [hch]; exact hslot)
    rw [hch] at hends
    obtain ⟨hn, rfl, rfl⟩ | ⟨hn, rfl, rfl⟩ := hends
    · exact .inr (.inl ⟨hlen, hn, rfl, List.append_nil _⟩)
    · exact .inr (.inr ⟨hlen, hn, rfl, rfl⟩)
  | underrun t _ _ ht _ hf' =>
    cases hf.symm.trans hf'

/-- A stream step with none held: the underrun, its end left owed or resolved. -/
theorem CodeOutcome.starved (h : CodeOutcome deferred n s c es) (hplay : Playing (s.ch n) slot)
    (hsrc : slot.record.source = .stream) (hf : (s.ch n).stream.fifo = []) :
    let held := presenting (s.ch n).hold ⟨false, false⟩ (s.ch n)
    let short := slot.record.length.getD 0 - (s.ch n).run.consumed
    let told : Emission :=
      .record .streamUnderrun (some n) (some (s.ch n).run.step) (some (BitVec.ofNat 32 short))
    (n ∈ deferred ∧ c = withDebt short (owing .streamEnd held) ∧ es = [told]) ∨
    (n ∉ deferred ∧ c = withDebt short (afterStepEnd slot held) ∧
      es = endRecords n slot (s.ch n) ++ [told]) := by
  obtain ⟨hrun, -, hslot⟩ := id hplay
  have hsame : ∀ t, Playing (s.ch n) t → t = slot := fun t ht => Option.some.inj (ht.2.2.symm.trans hslot)
  intro held short told
  cases h with
  | unplayed hno =>
    obtain ⟨id', hsrc', -⟩ := hno slot hplay
    cases hsrc.symm.trans hsrc'
  | memoryOn t _ _ ht hsrc' =>
    obtain rfl := hsame t ht
    cases hsrc.symm.trans hsrc'
  | memoryEnd t _ _ _ _ ht hsrc' =>
    obtain rfl := hsame t ht
    cases hsrc.symm.trans hsrc'
  | streamOn t _ _ _ _ hf' => cases hf.symm.trans hf'
  | streamEnd t _ _ _ _ _ _ hf' => cases hf.symm.trans hf'
  | underrun t c' es' ht _ _ hend =>
    obtain rfl := hsame t ht
    have hch := ch_setCh_same s n (presentOn (s.ch n).hold {} (s.ch n))
    have hends := hend.streamEnd (t := t) (by rw [hch]; exact hrun) (by rw [hch]; exact hslot)
    rw [hch] at hends
    obtain ⟨hn, rfl, rfl⟩ | ⟨hn, rfl, rfl⟩ := hends
    · exact .inl ⟨hn, rfl, rfl⟩
    · exact .inr ⟨hn, rfl, rfl⟩

end AsStated

end Sys2Proof.Machine
end

section
/-! PROOF. One channel at a boundary, settled: codes that are not played samples, memory samples and stream samples
(R39, R52 to R55, R66 to R77, R90 to R93). -/

namespace Sys2Proof.Machine

theorem primed_eq_false_of_phase {c : Channel} (h : c.run.phase ≠ .priming) : primed c = false := by
  rw [← Bool.not_eq_true, primed_iff]
  exact fun hp => h hp.2.1

theorem primed_eq_false_of_playback {c : Channel} (h : c.playback ≠ .running) : primed c = false := by
  rw [← Bool.not_eq_true, primed_iff]
  exact fun hp => h hp.1

theorem held_of_atCodes {turns : List Ch} {s : State} (h : AtCodes (openBoundary turns s)) :
    s.resetHeld = false := (openBoundary_resetHeld turns s).symm.trans h.1

/-- A boundary that enters nothing of a kind about a channel. -/
theorem recordsOf_of_tells {s t : State} {k : EventKind} {n : Ch} (h : Tells s t k n none) :
    recordsOf s t k n = [] := h.elim id And.left

end Sys2Proof.Machine

namespace Sys2Proof.Proofs

open Sys2Proof.Machine

/-- Settles O42: a channel that plays nothing presents what its state and phase say. -/
theorem unplayedCodes : Obligations.UnplayedCodes := by
  intro turns deferred s n o hat
  refine ⟨_, exec_sampleBoundary turns deferred (held_of_atCodes hat), ?_⟩
  intro c presents
  have hpresents : (c.playback ≠ .running ∨ c.run.phase ≠ .playing) → primed c = false →
      presents (unplayedCode c) := fun hno hprimed =>
    codes_unplayed hat hprimed fun t ht => hno.elim (absurd ht.1) (absurd ht.2.1)
  refine ⟨fun hp => ?_, fun hp => ?_, fun hp hphase => ?_, fun r hp hphase hrec hfew => ?_, fun hp => ?_⟩
  · have hne : c.playback ≠ .running := by rw [hp]; decide
    simpa only [unplayedCode, hp] using hpresents (.inl hne) (primed_eq_false_of_playback hne)
  · have hne : c.playback ≠ .running := by rw [hp]; decide
    simpa only [unplayedCode, hp] using hpresents (.inl hne) (primed_eq_false_of_playback hne)
  · have hno : c.run.phase ≠ .playing := by rw [hphase]; decide
    have hprimed : primed c = false := primed_eq_false_of_phase (by rw [hphase]; decide)
    simpa only [unplayedCode, hp] using hpresents (.inr hno) hprimed
  · have hno : c.run.phase ≠ .playing := by rw [hphase]; decide
    have hprimed : primed c = false := by
      rw [← Bool.not_eq_true, primed_iff]
      rintro ⟨-, -, r', hrec', hmany⟩
      cases Option.some.inj (hrec.symm.trans hrec')
      exact absurd hfew (Nat.not_lt.mpr hmany)
    simpa only [unplayedCode, hp] using hpresents (.inr hno) hprimed
  · have hne : c.playback ≠ .running := by rw [hp]; decide
    have hdone := hpresents (.inl hne) (primed_eq_false_of_playback hne)
    cases he : c.settings.endAction with
    | park => simpa only [unplayedCode, hp, he, if_true] using hdone
    | hold => simpa only [unplayedCode, hp, he, reduceCtorEq, if_false] using hdone

/-- Settles O43: the sample formed, the flags, and the ways a memory step goes on. -/
theorem memorySamplePlayed : Obligations.MemorySamplePlayed := by
  intro turns deferred s n slot id g o c r hat hrun hphase hslot hsrc hg a b v u us d code m i' f' run played
    left goesOn event
  have hplay : Playing c slot := ⟨hrun, hphase, hslot⟩
  have hprimed : primed c = false := primed_eq_false_of_phase (by rw [hphase]; decide)
  obtain ⟨c', es, hout, hch, htells⟩ := codes_told (deferred := deferred) hat hprimed
  have hv : memoryValue g c.run.i c.run.f o.mem.store = v := interpolate_eq_floor a b c.run.f
  have hu : (memoryFormed n o r g).u = u := by
    rw [memoryFormed, hv]
    exact formOn_u
  have hus : saturate (memoryFormed n o r g).u = us := by rw [hu, saturate_eq]
  have hd : (memoryFormed n o r g).d = d := by
    rw [memoryFormed, formOn_d, ← memoryFormed, hus]
  have hcode : (memoryFormed n o r g).c = code := by
    rw [memoryFormed, formOn_c, ← memoryFormed, hd]
  have hplayed : ∀ run', presented r (memoryFormed n o r g) c run' = played run' := fun run' => by
    rw [presented, clips_eq, limits_eq, hus, hu, hd, hcode]
    rfl
  obtain ⟨hclip, hlimit⟩ := toldOf_flagRecords o.dev.counter n (memoryFormed n o r g) c
  rw [hus, hu] at hclip
  rw [hd, hcode] at hlimit
  have hother : ∀ k, k ∉ [EventKind.clip, .limit, .seqDone] → k ≠ .clip ∧ k ≠ .limit ∧ k ≠ .seqDone := by
    simp
  have hquiet : es = flagRecords n (memoryFormed n o r g) c →
      Tells o (sampleBoundary turns deferred s) .clip n
        (if us ≠ u ∧ c.clip = false then some (event .clip (some (BitVec.ofInt 32 u))) else none) ∧
      Tells o (sampleBoundary turns deferred s) .limit n
        (if code ≠ d ∧ c.limit = false then some (event .limit (some (BitVec.ofInt 32 d))) else none) ∧
      Tells o (sampleBoundary turns deferred s) .seqDone n none ∧
      ∀ k, k ∉ [EventKind.clip, .limit, .seqDone] →
        recordsOf o (sampleBoundary turns deferred s) k n = [] := by
    rintro rfl
    refine ⟨htells _ _ hclip, htells _ _ hlimit,
      htells _ _ (toldOf_flagRecords_other _ _ _ _ (by decide) (by decide)), fun k hk => ?_⟩
    obtain ⟨hk1, hk2, -⟩ := hother k hk
    exact recordsOf_of_tells (htells _ _ (toldOf_flagRecords_other _ _ _ _ hk1 hk2))
  have hgoes : continues c.run.leave r.repeats c.run.repeatsLeft = true ↔ goesOn := continues_iff
  refine ⟨_, exec_sampleBoundary turns deferred (held_of_atCodes hat), ?_⟩
  rw [hch]
  obtain ⟨hp, rfl, hes⟩ | ⟨hp, hn, rfl, hes⟩ | ⟨hp, hn, hc, rfl, hes⟩ | ⟨hp, hn, hc, rfl, rfl⟩ :=
    hout.memory hplay hsrc hg
  · obtain ⟨h1, h2, h3, h4⟩ := hquiet hes
    refine ⟨fun _ => hplayed _, fun h => absurd hp (Nat.not_lt.mpr h), fun h => absurd hp (Nat.not_lt.mpr h),
      h1, h2, ?_, h4⟩
    rw [if_neg fun h => absurd hp (Nat.not_lt.mpr h.1)]
    exact h3
  · obtain ⟨h1, h2, h3, h4⟩ := hquiet hes
    refine ⟨fun h => absurd h (Nat.not_lt.mpr hp), fun _ _ => hplayed _, fun _ h => absurd hn h,
      h1, h2, ?_, h4⟩
    rw [if_neg fun h => h.2.1 hn]
    exact h3
  · obtain ⟨h1, h2, h3, h4⟩ := hquiet hes
    refine ⟨fun h => absurd h (Nat.not_lt.mpr hp), fun _ h => absurd h hn,
      fun _ _ => ⟨fun _ => hplayed _, fun h => absurd (hgoes.mp hc) h⟩, h1, h2, ?_, h4⟩
    rw [if_neg fun h => h.2.2.1 (hgoes.mp hc)]
    exact h3
  · have hstops : ¬ goesOn := fun h => absurd (hgoes.mpr h) (by rw [hc]; decide)
    refine ⟨fun h => absurd h (Nat.not_lt.mpr hp), fun _ h => absurd h hn,
      fun _ _ => ⟨fun h => absurd h hstops, fun _ => congrArg _ (hplayed _)⟩,
      htells _ _ ?_, htells _ _ ?_, htells _ _ ?_, fun k hk => recordsOf_of_tells (htells _ _ ?_)⟩
    · rw [toldOf_append, toldOf_endRecords_other _ _ _ _ (by decide), List.append_nil]
      exact hclip
    · rw [toldOf_append, toldOf_endRecords_other _ _ _ _ (by decide), List.append_nil]
      exact hlimit
    · rw [toldOf_append, toldOf_flagRecords_other _ _ _ _ (by decide) (by decide), List.nil_append,
        toldOf_endRecords]
      refine congrArg _ (if_congr ?_ rfl rfl)
      exact ⟨fun h => ⟨hp, hn, hstops, h⟩, fun h => h.2.2.2⟩
    · obtain ⟨hk1, hk2, hk3⟩ := hother k hk
      rw [toldOf_append, toldOf_endRecords_other _ _ _ _ hk3, List.append_nil]
      exact toldOf_flagRecords_other _ _ _ _ hk1 hk2

/-- Settles O44: the sample consumed and formed, or the underrun, and the ways a stream step goes on. -/
theorem streamSamplePlayedOrUnderrun : Obligations.StreamSamplePlayedOrUnderrun := by
  intro turns deferred s n slot o c r hat hrun hphase hslot hsrc len event listEnds
  have hplay : Playing c slot := ⟨hrun, hphase, hslot⟩
  have hprimed : primed c = false := primed_eq_false_of_phase (by rw [hphase]; decide)
  obtain ⟨c', es, hout, hch, htells⟩ := codes_told (deferred := deferred) hat hprimed
  refine ⟨_, exec_sampleBoundary turns deferred (held_of_atCodes hat), ?_, ?_⟩
  · intro x rest hf u us d code m run played
    have hu : (formOn n r x.toInt o).u = u := formOn_u
    have hus : saturate (formOn n r x.toInt o).u = us := by rw [hu, saturate_eq]
    have hd : (formOn n r x.toInt o).d = d := by rw [formOn_d, hus]
    have hcode : (formOn n r x.toInt o).c = code := by rw [formOn_c, hd]
    have hplayed : ∀ run', streamPresented r (formOn n r x.toInt o) rest c run' = played run' := fun run' => by
      rw [streamPresented, presented, clips_eq, limits_eq, hus, hu, hd, hcode]
      rfl
    obtain ⟨hclip, hlimit⟩ := toldOf_flagRecords o.dev.counter n (formOn n r x.toInt o) c
    rw [hus, hu] at hclip
    rw [hd, hcode] at hlimit
    have hlow := toldOf_lowRecords o.dev.counter n rest c
    rw [hf, List.length_cons] at hlow
    have hother : ∀ k, k ∉ [EventKind.streamLow, .clip, .limit, .seqDone] →
        k ≠ .streamLow ∧ k ≠ .clip ∧ k ≠ .limit ∧ k ≠ .seqDone := by
      simp
    rw [hch]
    have htold : ∀ es', (es = lowRecords n rest c ++ flagRecords n (formOn n r x.toInt o) c ++ es') →
        (∀ k, k ≠ .seqDone → toldOf o.dev.counter k es' = []) →
        Tells o (sampleBoundary turns deferred s) .streamLow n
          (if c.settings.lowMark < rest.length + 1 ∧ rest.length ≤ c.settings.lowMark then
            some (event .streamLow (some (BitVec.ofNat 32 rest.length))) else none) ∧
        Tells o (sampleBoundary turns deferred s) .clip n
          (if us ≠ u ∧ c.clip = false then some (event .clip (some (BitVec.ofInt 32 u))) else none) ∧
        Tells o (sampleBoundary turns deferred s) .limit n
          (if code ≠ d ∧ c.limit = false then some (event .limit (some (BitVec.ofInt 32 d))) else none) ∧
        (∀ e, toldOf o.dev.counter .seqDone es' = e.toList →
          Tells o (sampleBoundary turns deferred s) .seqDone n e) ∧
        ∀ k, k ∉ [EventKind.streamLow, .clip, .limit, .seqDone] →
          recordsOf o (sampleBoundary turns deferred s) k n = [] := by
      rintro es' rfl hend
      refine ⟨htells _ _ ?_, htells _ _ ?_, htells _ _ ?_, fun e he => htells _ _ ?_,
        fun k hk => recordsOf_of_tells (htells _ _ ?_)⟩
      · rw [toldOf_append, toldOf_append, hend _ (by decide),
          toldOf_flagRecords_other _ _ _ _ (by decide) (by decide), List.append_nil, List.append_nil]
        exact hlow
      · rw [toldOf_append, toldOf_append, hend _ (by decide), toldOf_lowRecords_other _ _ _ _ (by decide),
          List.append_nil, List.nil_append]
        exact hclip
      · rw [toldOf_append, toldOf_append, hend _ (by decide), toldOf_lowRecords_other _ _ _ _ (by decide),
          List.append_nil, List.nil_append]
        exact hlimit
      · rw [toldOf_append, toldOf_append, toldOf_lowRecords_other _ _ _ _ (by decide),
          toldOf_flagRecords_other _ _ _ _ (by decide) (by decide), List.append_nil, List.nil_append]
        exact he
      · obtain ⟨hk1, hk2, hk3, hk4⟩ := hother k hk
        rw [toldOf_append, toldOf_append, hend _ hk4, toldOf_lowRecords_other _ _ _ _ hk1,
          toldOf_flagRecords_other _ _ _ _ hk2 hk3]
        rfl
    obtain ⟨hlen, rfl, hes⟩ | ⟨hlen, hn, rfl, hes⟩ | ⟨hlen, hn, rfl, hes⟩ := hout.stream hplay hsrc hf
    · obtain ⟨h1, h2, h3, h4, h5⟩ := htold [] (hes.trans (List.append_nil _).symm) fun _ _ => rfl
      refine ⟨fun _ => hplayed _, fun h => absurd hlen (Nat.not_lt.mpr h),
        fun h => absurd hlen (Nat.not_lt.mpr h), h1, h2, h3, h4 _ ?_, h5⟩
      rw [if_neg fun h => absurd hlen (Nat.not_lt.mpr h.1)]
      rfl
    · obtain ⟨h1, h2, h3, h4, h5⟩ := htold [] (hes.trans (List.append_nil _).symm) fun _ _ => rfl
      refine ⟨fun h => absurd h (Nat.not_lt.mpr hlen), fun _ _ => hplayed _, fun _ h => absurd hn h,
        h1, h2, h3, h4 _ ?_, h5⟩
      rw [if_neg fun h => h.2.1 hn]
      rfl
    · obtain ⟨h1, h2, h3, h4, h5⟩ := htold _ hes fun k hk => toldOf_endRecords_other _ _ _ _ hk
      refine ⟨fun h => absurd h (Nat.not_lt.mpr hlen), fun _ h => absurd h hn,
        fun _ _ => congrArg _ (hplayed _), h1, h2, h3, h4 _ ?_, h5⟩
      rw [toldOf_endRecords]
      exact congrArg _ (if_congr ⟨fun h => ⟨hlen, hn, h⟩, fun h => h.2.2⟩ rfl rfl)
  · intro hf held owes
    have howes : ∀ c' : Channel, c'.stream = c.stream → withDebt (len - c.run.consumed) c' = owes c' := by
      intro c' hstream
      simp only [withDebt, hstream, hf]
      rfl
    have hother : ∀ k, k ∉ [EventKind.streamUnderrun, .seqDone] → k ≠ .streamUnderrun ∧ k ≠ .seqDone := by
      simp
    rw [hch]
    obtain ⟨hn, rfl, rfl⟩ | ⟨hn, rfl, rfl⟩ := hout.starved hplay hsrc hf
    · refine ⟨fun h => absurd hn h, fun _ => ?_, htells _ _ (toldOf_record _ _ _ _ _ _), htells _ _ ?_,
        fun k hk => recordsOf_of_tells (htells _ _ ?_)⟩
      · exact howes _ rfl
      · rw [if_neg fun h => h.1 hn]
        exact toldOf_record _ _ _ _ _ _
      · exact (toldOf_record _ _ _ _ _ _).trans (if_neg (hother k hk).1.symm)
    · refine ⟨fun _ => ?_, fun h => absurd h hn, htells _ _ ?_, htells _ _ ?_,
        fun k hk => recordsOf_of_tells (htells _ _ ?_)⟩
      · refine howes _ ?_
        rw [afterStepEnd]
        split <;> rfl
      · rw [toldOf_append, toldOf_endRecords_other _ _ _ _ (by decide), toldOf_record]
        rfl
      · have hne : EventKind.streamUnderrun ≠ .seqDone := by decide
        rw [toldOf_append, toldOf_endRecords, toldOf_record, if_neg hne, List.append_nil]
        exact congrArg _ (if_congr ⟨fun h => ⟨hn, h⟩, fun h => h.2⟩ rfl rfl)
      · obtain ⟨hk1, hk2⟩ := hother k hk
        rw [toldOf_append, toldOf_endRecords_other _ _ _ _ hk2, toldOf_record, if_neg hk1.symm]
        rfl

end Sys2Proof.Proofs
end

section
/-! PROOF. The moments of a boundary told as commands are parts of it (R41; log entry 5). -/

namespace Sys2Proof.Machine

/-! ### A channel primed already -/

theorem setAll_setCh_mem {l : List Ch} {n : Ch} (hn : n ∈ l) (c : Ch → Channel) (d : Channel) (s : State) :
    setAll l c (s.setCh n d) = setAll l c s := by
  induction l generalizing s with
  | nil => exact absurd hn List.not_mem_nil
  | cons k l ih =>
    simp only [setAll, eachCh_cons]
    by_cases hk : k = n
    · rw [hk, setCh_setCh]
    · rw [setCh_comm s hk]
      exact ih ((List.mem_cons.mp hn).resolve_left (Ne.symm hk)) _

theorem primedChannel_idem (c : Channel) : primedChannel (primedChannel c) = primedChannel c := by
  unfold primedChannel
  cases h : primed c with
  | false =>
    rw [if_neg Bool.false_ne_true, h]
    exact if_neg Bool.false_ne_true
  | true =>
    rw [if_pos rfl]
    exact if_neg (Bool.eq_false_iff.mp (primed_eq_false_of_phase
      (show Phase.playing ≠ .priming by decide)))

theorem eachCh_primingStage (turns : List Ch) (s : State) : eachCh (channelOrder turns) primingStage s =
    setAll (channelOrder turns) (fun n => primedChannel (s.ch n)) s := by
  rw [eachCh_actsAs (channelOrder_nodup turns) fun n _ => actsAs_primingStage n _,
    List.flatMap_eq_nil_iff.mpr fun _ _ => rfl]
  rfl

/-- A channel primed ahead of the priming stage of them all. -/
theorem eachCh_primingStage_primed (turns : List Ch) (n : Ch) (s : State) :
    eachCh (channelOrder turns) primingStage (primingStage n s) = eachCh (channelOrder turns) primingStage s := by
  have hone : primingStage n s = s.setCh n (primedChannel (s.ch n)) := (actsAs_primingStage n s).eq
  rw [eachCh_primingStage, eachCh_primingStage, hone, setAll_setCh_mem (mem_channelOrder turns n)]
  refine congrArg (fun c => setAll (channelOrder turns) c s) (funext fun k => ?_)
  rw [ch_setCh]
  split
  · next hk => rw [hk, primedChannel_idem]
  · rfl

theorem sampleBoundary_primingStage (turns deferred : List Ch) (n : Ch) (s : State) :
    sampleBoundary turns deferred (primingStage n (toPriming turns s)) = sampleBoundary turns deferred s := by
  have hone : primingStage n (toPriming turns s) =
      (toPriming turns s).setCh n (primedChannel ((toPriming turns s).ch n)) := (actsAs_primingStage n _).eq
  have hopen : (primingStage n (toPriming turns s)).boundaryOpen = true := by
    rw [hone, setCh_boundaryOpen, toPriming, cueStage_boundaryOpen, openBoundary_boundaryOpen]
  have hcues : cueStage turns (primingStage n (toPriming turns s)) = primingStage n (toPriming turns s) := by
    refine cueStage_none (takeDue_eq_none_iff.mp ?_)
    rw [hone, setCh_dev, setCh_cue, toPriming, cueStage_dev, takeDue_cueStage]
  simp only [sampleBoundary, openBoundary_open hopen, hcues, eachCh_primingStage_primed]
  rfl

/-! ### A channel's marker levels, which its code replaces -/

/-- Channel `n`'s marker levels set. -/
def setMarkers (n : Ch) (m : MarkerLevels) (s : State) : State := s.setCh n { s.ch n with markers := m }

section SetMarkers

variable (n : Ch) (m : MarkerLevels) (s : State)

@[simp] theorem setMarkers_ch : (setMarkers n m s).ch n = { s.ch n with markers := m } := ch_setCh_same ..
@[simp] theorem setMarkers_dev : (setMarkers n m s).dev = s.dev := rfl
@[simp] theorem setMarkers_mem : (setMarkers n m s).mem = s.mem := rfl
@[simp] theorem setMarkers_cue : (setMarkers n m s).cue = s.cue := rfl
@[simp] theorem setMarkers_pr (k : Ch) : (setMarkers n m s).pr k = s.pr k := rfl
@[simp] theorem setMarkers_boundaryOpen : (setMarkers n m s).boundaryOpen = s.boundaryOpen := rfl

theorem setMarkers_sameView {k : Ch} (hk : k ≠ n) : SameView k s (setMarkers n m s) :=
  ⟨ch_setCh_ne _ _ hk, rfl, rfl, rfl⟩

@[simp] theorem setMarkers_setCh (c : Channel) : (setMarkers n m s).setCh n c = s.setCh n c := setCh_setCh ..

theorem setCh_setMarkers (c : Channel) : setMarkers n m (s.setCh n c) = s.setCh n { c with markers := m } := by
  rw [setMarkers, ch_setCh_same, setCh_setCh]

theorem emitAll_setMarkers (es : List Emission) :
    emitAll es (setMarkers n m s) = setMarkers n m (emitAll es s) := by
  rw [setMarkers, setMarkers, emitAll_setCh, emitAll_ch]

variable {n s}

/-- A stage of another channel does not meet them. -/
theorem ActsAs.setMarkers {k : Ch} {f : State → State} {c : Channel} {es : List Emission}
    (h : ActsAs k f s c es) (hk : k ≠ n) :
    f (Machine.setMarkers n m s) = Machine.setMarkers n m (f s) := by
  rw [h _ (setMarkers_sameView n m s hk), h.eq, ← emitAll_setMarkers, Machine.setMarkers, Machine.setMarkers,
    ch_setCh_ne _ _ (Ne.symm hk), setCh_comm _ hk]

variable (n s)

theorem enterEvent_setMarkers (k : EventKind) (c : Option Ch) (i : Option Nat) (v : Option Word) :
    enterEvent k c i v (setMarkers n m s) = setMarkers n m (enterEvent k c i v s) := rfl

theorem enterStep_setMarkers (idx : Nat) :
    enterStep n idx (setMarkers n m s) = setMarkers n m (enterStep n idx s) := by
  cases h : (s.ch n).list[idx]? with
  | none =>
    rw [enterStep_none h, enterStep_none (by rw [setMarkers_ch]; exact h)]
  | some t =>
    rw [enterStep_some h, enterStep_some (t := t) (by rw [setMarkers_ch]; exact h), ← emitAll_setMarkers,
      setMarkers_setCh, setCh_setMarkers, setMarkers_ch]
    rfl

theorem takeCue_setMarkers_same (cue : Nat) :
    takeCue cue n (setMarkers n m s) = setMarkers n m (takeCue cue n s) := by
  simp only [takeCue, setMarkers_ch, enterStep_setMarkers, setMarkers_setCh, Channel.record]
  split
  · split
    · rw [setCh_setMarkers]
    · rw [← enterEvent_setMarkers, setCh_setMarkers]
      rfl
  · split
    · rfl
    · generalize (if (s.ch n).playback = .running then
        ((s.ch n).list[(s.ch n).run.step]?).map Slot.record else none) = r
      cases r with
      | none =>
        simp only
        split
        · rw [setCh_setMarkers]
        · rfl
      | some r =>
        simp only
        split
        · rw [setCh_setMarkers]
          rfl
        · split
          · rw [setCh_setMarkers]
          · split
            · rw [setCh_setMarkers]
            · rfl

theorem takeCue_setMarkers (cue : Nat) (k : Ch) :
    takeCue cue k (setMarkers n m s) = setMarkers n m (takeCue cue k s) := by
  by_cases hk : k = n
  · rw [hk, takeCue_setMarkers_same]
  · obtain ⟨c, es, -, hact⟩ := actsAs_takeCue cue k s
    exact hact.setMarkers m hk

theorem eachCh_setMarkers {f : Ch → State → State}
    (h : ∀ k t, f k (setMarkers n m t) = setMarkers n m (f k t)) (l : List Ch) :
    eachCh l f (setMarkers n m s) = setMarkers n m (eachCh l f s) := by
  induction l generalizing s with
  | nil => rfl
  | cons k l ih => rw [eachCh_cons, h, ih, eachCh_cons]

theorem applyFirstDue_setMarkers (turns : List Ch) :
    applyFirstDue turns (setMarkers n m s) = setMarkers n m (applyFirstDue turns s) := by
  cases h : takeDue s.dev.counter s.cue.delivery with
  | none => rw [applyFirstDue_none h, applyFirstDue_none (s := setMarkers n m s) h]
  | some x =>
    rw [applyFirstDue_some h, applyFirstDue_some (s := setMarkers n m s) h, applyCue, applyCue,
      ← eachCh_setMarkers _ _ _ fun k t => takeCue_setMarkers n m t _ k]
    rfl

theorem cueStage_setMarkers (turns : List Ch) :
    cueStage turns (setMarkers n m s) = setMarkers n m (cueStage turns s) := by
  suffices h : ∀ fuel s, applyDue turns fuel (setMarkers n m s) = setMarkers n m (applyDue turns fuel s) from
    h _ s
  intro fuel
  induction fuel with
  | zero => exact fun _ => rfl
  | succ fuel ih => exact fun s => by rw [applyDue, applyFirstDue_setMarkers, ih, applyDue]

theorem primingStage_setMarkers (k : Ch) :
    primingStage k (setMarkers n m s) = setMarkers n m (primingStage k s) := by
  by_cases hk : k = n
  · rw [hk, (actsAs_primingStage n s).eq, (actsAs_primingStage n _).eq, emitAll_nil, emitAll_nil,
      setMarkers_setCh, setCh_setMarkers, setMarkers_ch, primedChannel, primedChannel]
    refine congrArg _ ?_
    change (if primed (s.ch n) = true then _ else _) = _
    split <;> rfl
  · exact (actsAs_primingStage k s).setMarkers m hk

/-! #### The code presented replaces them -/

theorem present_setMarkers (code : Int) (l : MarkerLevels) :
    present n code l (setMarkers n m s) = present n code l s := by
  rw [present, setMarkers_setCh, setMarkers_ch]
  rfl

theorem setClip_setMarkers (x : Formed) : setClip n x (setMarkers n m s) = setMarkers n m (setClip n x s) := by
  unfold setClip
  split
  · simp only [setMarkers_ch, setMarkers_setCh]
    split
    · rw [setCh_setMarkers]
    · rw [← enterEvent_setMarkers, setCh_setMarkers]
  · rfl

theorem setLimit_setMarkers (x : Formed) : setLimit n x (setMarkers n m s) = setMarkers n m (setLimit n x s) := by
  unfold setLimit
  split
  · simp only [setMarkers_ch, setMarkers_setCh]
    split
    · rw [setCh_setMarkers]
    · rw [← enterEvent_setMarkers, setCh_setMarkers]
  · rfl

theorem playValue_setMarkers (r : StepRecord) (v : Int) :
    playValue n r v (setMarkers n m s) = playValue n r v s := by
  have hform : formOn n r v (setMarkers n m s) = formOn n r v s := by
    rw [formOn, setMarkers_ch]
    rfl
  rw [playValue, hform, setClip_setMarkers, setLimit_setMarkers, present_setMarkers, setMarkers_ch]
  rfl

theorem consume_setMarkers (rest : List Sample) :
    consume n rest (setMarkers n m s) = setMarkers n m (consume n rest s) := by
  simp only [consume, setMarkers_ch, setMarkers_setCh]
  split
  · rw [← enterEvent_setMarkers, setCh_setMarkers]
  · rw [setCh_setMarkers]

theorem underrun_setMarkers (r : StepRecord) (deferred : List Ch) :
    underrun n r deferred (setMarkers n m s) = underrun n r deferred s := by
  simp only [underrun, setMarkers_ch, present_setMarkers]

theorem playStep_setMarkers (r : StepRecord) (deferred : List Ch) :
    playStep n r deferred (setMarkers n m s) = playStep n r deferred s := by
  cases hsrc : r.source with
  | memory id =>
    cases hg : findSeg s.mem.segs id with
    | none =>
      rw [playStep_noSegment hsrc hg, playStep_noSegment (s := setMarkers n m s) hsrc hg, present_setMarkers,
        setMarkers_ch]
    | some g =>
      rw [playStep_memory hsrc hg, playStep_memory (s := setMarkers n m s) hsrc hg, playValue_setMarkers,
        setMarkers_ch]
      rfl
  | stream =>
    have hfifo : ((setMarkers n m s).ch n).stream.fifo = (s.ch n).stream.fifo := by rw [setMarkers_ch]
    cases hf : (s.ch n).stream.fifo with
    | nil => rw [playStep_underrun hsrc hf, playStep_underrun hsrc (hfifo.trans hf), underrun_setMarkers]
    | cons x rest =>
      rw [playStep_stream hsrc hf, playStep_stream hsrc (hfifo.trans hf), consume_setMarkers,
        playValue_setMarkers]

theorem codeStage_setMarkers (deferred : List Ch) :
    codeStage deferred n (setMarkers n m s) = codeStage deferred n s := by
  by_cases h : ∃ t, Playing (s.ch n) t
  · obtain ⟨t, ht⟩ := h
    have ht' : Playing ((setMarkers n m s).ch n) t := by
      rw [setMarkers_ch]
      exact ht
    rw [codeStage_playing ht, codeStage_playing ht', playStep_setMarkers]
  · have hno : ∀ t, ¬ Playing ((setMarkers n m s).ch n) t := fun t ht => h ⟨t, by
      rw [setMarkers_ch] at ht
      exact ht⟩
    rw [codeStage_unplayed fun t ht => h ⟨t, ht⟩, codeStage_unplayed hno, present_setMarkers, setMarkers_ch]
    rfl

/-- The code stage of all channels, told from either levels. -/
theorem eachCh_codeStage_setMarkers (deferred : List Ch) {l : List Ch} (hn : n ∈ l) :
    eachCh l (codeStage deferred) (setMarkers n m s) = eachCh l (codeStage deferred) s := by
  induction l generalizing s with
  | nil => exact absurd hn List.not_mem_nil
  | cons k l ih =>
    rw [eachCh_cons, eachCh_cons]
    by_cases hk : k = n
    · rw [hk, codeStage_setMarkers]
    · obtain ⟨c, es, -, hact⟩ := actsAs_codeStage deferred k s
      rw [hact.setMarkers m hk]
      exact ih _ ((List.mem_cons.mp hn).resolve_left (Ne.symm hk))

theorem sampleBoundary_setMarkers (turns deferred : List Ch) :
    sampleBoundary turns deferred (setMarkers n m (openBoundary turns s)) = sampleBoundary turns deferred s := by
  have hopen : (setMarkers n m (openBoundary turns s)).boundaryOpen = true := openBoundary_boundaryOpen turns s
  simp only [sampleBoundary, openBoundary_open hopen, cueStage_setMarkers,
    eachCh_setMarkers n m _ fun k t => primingStage_setMarkers n m t k,
    eachCh_codeStage_setMarkers n m _ deferred (mem_channelOrder turns n)]

end SetMarkers

/-! ### The moments one by one -/

/-- The rows O51 names: each is a part of the boundary. -/
theorem sampleBoundary_momentOf {n : Ch} {turns : List Ch} (deferred : List Ch) (s : State) {c : Instr}
    (hc : c ∈ [Instr.startTimeReached n turns, .primingMet n turns, .markerWidthEnd n turns,
      .cueEffectiveSample turns, .dividerSwitch turns]) :
    tellsMoment c = true ∧
      sampleBoundary turns deferred (momentOf c s) = sampleBoundary turns deferred s := by
  simp only [List.mem_cons, List.not_mem_nil, or_false] at hc
  obtain rfl | rfl | rfl | rfl | rfl := hc
  · refine ⟨rfl, ?_⟩
    change sampleBoundary turns deferred (if startTimeDue n s then openBoundary turns s else s) = _
    split
    · exact sampleBoundary_opened turns deferred s
    · rfl
  · refine ⟨rfl, ?_⟩
    change sampleBoundary turns deferred (if primed ((toPriming turns s).ch n) then
      primingStage n (toPriming turns s) else s) = _
    split
    · exact sampleBoundary_primingStage turns deferred n s
    · rfl
  · refine ⟨rfl, ?_⟩
    change sampleBoundary turns deferred (if markerSpent ((openBoundary turns s).ch n) then
      setMarkers n {} (openBoundary turns s) else s) = _
    split
    · exact sampleBoundary_setMarkers n {} s turns deferred
    · rfl
  · refine ⟨rfl, ?_⟩
    change sampleBoundary turns deferred (if (takeDue (actingBoundary s) s.cue.delivery).isSome then
      applyFirstDue turns (openBoundary turns s) else s) = _
    split
    · exact sampleBoundary_applyFirstDue turns deferred s
    · rfl
  · refine ⟨rfl, ?_⟩
    change sampleBoundary turns deferred (if !s.boundaryOpen && switchDue s.dev then
      openBoundary turns s else s) = _
    split
    · exact sampleBoundary_opened turns deferred s
    · rfl

end Sys2Proof.Machine

namespace Sys2Proof.Proofs

open Sys2Proof.Machine

/-- Settles O51: each moment's row is a part of the boundary; any other row acts from the boundary finished. -/
theorem stagesMakeOneBoundary : Obligations.StagesMakeOneBoundary := by
  refine ⟨fun n turns deferred s t c hc h => ?_, fun c s hm hb hr ho => ?_⟩
  · obtain ⟨htells, hmoment⟩ := sampleBoundary_momentOf deferred s hc
    rw [exec_moment s htells] at h
    cases h
    cases hr : s.resetHeld with
    | true => rw [live_held hr]
    | false =>
      have hr' : (momentOf c s).resetHeld = false := by
        obtain ⟨-, -, -, -, hheld, -⟩ := momentOf_sameOutside c s
        exact hheld.trans hr
      rw [live_running hr, exec_sampleBoundary _ _ hr, exec_sampleBoundary _ _ hr', hmoment]
  · have hr' : (sampleBoundary [] [] s).resetHeld = false := by
      obtain ⟨-, -, -, -, hheld, -⟩ := sameOutside_sampleBoundary [] [] s
      exact hheld.trans hr
    have hbetween : Between (sampleBoundary [] [] s) := ⟨hr', sampleBoundary_boundaryOpen _ _ _⟩
    refine ⟨_, exec_sampleBoundary _ _ hr, hbetween, ?_⟩
    rw [exec_action_between hbetween hm hb, exec_action s hm hb, between, hr, finishBoundary_opened ho]
    rfl

end Sys2Proof.Proofs
end

section
/-! PROOF. What a boundary and its moments keep: of each channel by its stages, and of the rest by the emissions; one
code presented on each channel (R41, R80, R183, R184). -/

namespace Sys2Proof.Machine

/-! ### What the stages before the codes keep of one channel -/

/-- The stages before the codes keep `Q` of channel `n`; its first argument says that the boundary is open. -/
structure KeptToCodes (n : Ch) (m : SegMem) (Q : Bool → Channel → Prop) : Prop where
  settle : ∀ b s c es, s.mem = m → SettleOutcome n s c es → Q b (s.ch n) → Q b c
  entry : ∀ now c c' es, EntryOutcome n c (entryOf now c) c' es → Q false c → Q false c'
  opens : ∀ c, Q false c → Q true c
  cue : ∀ cue c c' es, CueTaken cue n c c' es → Q true c → Q true c'
  priming : ∀ c, Q true c → Q true (primedChannel c)

/-- All the stages of a boundary keep `Q` of channel `n`. -/
structure KeptByStages (n : Ch) (m : SegMem) (Q : Bool → Channel → Prop) : Prop extends KeptToCodes n m Q where
  markers : ∀ c, Q true c → Q true { c with markers := {} }
  codes : ∀ deferred s c es, s.mem = m → CodeOutcome deferred n s c es → Q true (s.ch n) → Q false c

section Keeps

variable {n : Ch} {m : SegMem} {Q : Bool → Channel → Prop} {s : State}

@[simp] theorem settled_mem (turns : List Ch) (s : State) : (settled turns s).mem = s.mem := by
  obtain ⟨c, es, -, heq, -⟩ := settled_eq turns s
  rw [heq, emitAll_mem, setAll_mem]

@[simp] theorem openBoundary_mem (turns : List Ch) (s : State) : (openBoundary turns s).mem = s.mem := by
  obtain ⟨hmem, -⟩ := sameOutside_openBoundary turns s
  exact hmem

theorem toCodes_mem (turns : List Ch) (s : State) : (toCodes turns s).mem = s.mem := by
  obtain ⟨hmem, -⟩ := sameOutside_eachCh sameOutside_primingStage (channelOrder turns) (toPriming turns s)
  obtain ⟨hcue, -⟩ := sameOutside_cueStage turns (openBoundary turns s)
  exact hmem.trans (hcue.trans (openBoundary_mem turns s))

theorem KeptToCodes.openBoundary (h : KeptToCodes n m Q) (hm : s.mem = m) (turns : List Ch)
    (hs : Q s.boundaryOpen (s.ch n)) : Q true ((openBoundary turns s).ch n) := by
  cases ho : s.boundaryOpen with
  | true => rwa [openBoundary_open ho, ← ho]
  | false =>
    rw [ho] at hs
    obtain ⟨c, es, hsettle, -, hch⟩ := settled_eq turns s
    obtain ⟨c', es', hentry, -, hch'⟩ := entries_eq turns (clocked turns s)
    have hsettled : Q false ((clocked turns s).ch n) := by
      rw [clocked, setDev_ch, hch]
      exact h.settle false s _ _ hm (hsettle n).1 hs
    rw [openBoundary_closed ho, setOpen_ch, hch']
    exact h.opens _ (h.entry _ _ _ _ (hentry n) hsettled)

theorem KeptToCodes.applyFirstDue (h : KeptToCodes n m Q) (turns : List Ch) (hs : Q true (s.ch n)) :
    Q true ((applyFirstDue turns s).ch n) := by
  cases hdue : takeDue s.dev.counter s.cue.delivery with
  | none => rwa [applyFirstDue_none hdue]
  | some x =>
    obtain ⟨c, es, htaken, heq⟩ := applyCue_eq turns x.1 (s.setCue { s.cue with delivery := x.2 })
    rw [applyFirstDue_some hdue, heq, emitAll_ch, setAll_ch (channelOrder_nodup turns),
      if_pos (mem_channelOrder turns n)]
    exact h.cue _ _ _ _ (htaken n).1 hs

theorem KeptToCodes.cueStage (h : KeptToCodes n m Q) (turns : List Ch) (hs : Q true (s.ch n)) :
    Q true ((cueStage turns s).ch n) := by
  suffices hdue : ∀ fuel s, Q true (s.ch n) → Q true ((applyDue turns fuel s).ch n) from hdue _ s hs
  intro fuel
  induction fuel with
  | zero => exact fun _ hs => hs
  | succ fuel ih => exact fun s hs => ih _ (h.applyFirstDue turns hs)

theorem KeptToCodes.toPriming (h : KeptToCodes n m Q) (hm : s.mem = m) (turns : List Ch)
    (hs : Q s.boundaryOpen (s.ch n)) : Q true ((toPriming turns s).ch n) :=
  h.cueStage turns (h.openBoundary hm turns hs)

theorem KeptToCodes.toCodes (h : KeptToCodes n m Q) (hm : s.mem = m) (turns : List Ch)
    (hs : Q s.boundaryOpen (s.ch n)) : Q true ((toCodes turns s).ch n) := by
  rw [toCodes_ch]
  exact h.priming _ (h.toPriming hm turns hs)

/-- The channel a boundary leaves is the outcome of its code stage. -/
theorem sampleBoundary_ch (turns deferred : List Ch) (s : State) (n : Ch) :
    ∃ es, CodeOutcome deferred n (toCodes turns s) ((sampleBoundary turns deferred s).ch n) es := by
  choose c es h using fun n => actsAs_codeStage deferred n (toCodes turns s)
  refine ⟨es n, ?_⟩
  rw [sampleBoundary_eq, setOpen_ch,
    eachCh_actsAs_ch (channelOrder_nodup turns) (fun m _ => (h m).2), if_pos (mem_channelOrder turns n)]
  exact (h n).1

theorem KeptByStages.sampleBoundary (h : KeptByStages n m Q) (hm : s.mem = m) (turns deferred : List Ch)
    (hs : Q s.boundaryOpen (s.ch n)) : Q false ((sampleBoundary turns deferred s).ch n) := by
  obtain ⟨es, hout⟩ := sampleBoundary_ch turns deferred s n
  exact h.codes _ _ _ _ ((toCodes_mem turns s).trans hm) hout (h.toCodes hm turns hs)

/-- What is resolved of an owed end, told of any channel of the state. -/
theorem KeptToCodes.settleOne (h : KeptToCodes n m Q) (hm : s.mem = m) (k : Ch) {b : Bool} (hs : Q b (s.ch n)) :
    Q b ((Machine.settle k s).ch n) := by
  obtain ⟨c, es, hout, hact⟩ := actsAs_settle k s
  rw [hact.eq, emitAll_ch, ch_setCh]
  split
  · next hk =>
    subst hk
    exact h.settle b s c es hm hout hs
  · exact hs

theorem settle_boundaryOpen (n : Ch) (s : State) : (settle n s).boundaryOpen = s.boundaryOpen := by
  obtain ⟨c, es, -, hact⟩ := actsAs_settle n s
  rw [hact.eq, emitAll_boundaryOpen, setCh_boundaryOpen]

/-- The rows of a step end resolve it, or do nothing. -/
theorem repeatBoundary_or (n : Ch) (s : State) : repeatBoundary n s = settle n s ∨ repeatBoundary n s = s := by
  by_cases h : (s.ch n).owes = .repeatBoundary
  · exact .inl ((if_pos h).trans (settle_repeatBoundary h).symm)
  · exact .inr (if_neg h)

theorem streamLengthReached_or (n : Ch) (s : State) :
    streamLengthReached n s = settle n s ∨ streamLengthReached n s = s := by
  by_cases h : (s.ch n).owes = .streamEnd
  · exact .inl ((if_pos h).trans (settle_streamEnd h).symm)
  · exact .inr (if_neg h)

/-- What a moment of a boundary makes of the state. -/
inductive MomentOutcome (s : State) : State → Prop
  | same : MomentOutcome s s
  | settled (n : Ch) : MomentOutcome s (settle n s)
  | opened (turns : List Ch) : MomentOutcome s (openBoundary turns s)
  | cued (turns : List Ch) : MomentOutcome s (applyFirstDue turns (openBoundary turns s))
  | primed (n : Ch) (turns : List Ch) : MomentOutcome s (primingStage n (toPriming turns s))
  | unmarked (n : Ch) (turns : List Ch) : MomentOutcome s (setMarkers n {} (openBoundary turns s))
  | whole (turns deferred : List Ch) : MomentOutcome s (sampleBoundary turns deferred s)

theorem MomentOutcome.of_or {t u : State} (h : MomentOutcome s u) (ht : t = u ∨ t = s) : MomentOutcome s t := by
  obtain rfl | rfl := ht
  · exact h
  · exact .same

theorem MomentOutcome.of_ite {p : Prop} [Decidable p] {u : State} (h : MomentOutcome s u) :
    MomentOutcome s (if p then u else s) := by
  split
  · exact h
  · exact .same

theorem momentOutcome (c : Instr) (s : State) : MomentOutcome s (momentOf c s) := by
  cases c
  case sampleBoundary turns deferred => exact .whole turns deferred
  case startTimeReached n turns => exact (MomentOutcome.opened turns).of_ite
  case primingMet n turns => exact (MomentOutcome.primed n turns).of_ite
  case markerWidthEnd n turns => exact (MomentOutcome.unmarked n turns).of_ite
  case cueEffectiveSample turns => exact (MomentOutcome.cued turns).of_ite
  case dividerSwitch turns => exact (MomentOutcome.opened turns).of_ite
  case repeatBoundary n => exact (MomentOutcome.settled n).of_or (repeatBoundary_or n s)
  case streamLengthReached n => exact (MomentOutcome.settled n).of_or (streamLengthReached_or n s)
  all_goals exact .same

/-- A moment keeps of a channel what its stages keep. -/
theorem KeptByStages.moment (h : KeptByStages n m Q) (hm : s.mem = m) {t : State} (ht : MomentOutcome s t)
    (hs : Q s.boundaryOpen (s.ch n)) : Q t.boundaryOpen (t.ch n) := by
  cases ht with
  | same => exact hs
  | settled k =>
    rw [settle_boundaryOpen]
    exact h.settleOne hm k hs
  | opened turns =>
    rw [openBoundary_boundaryOpen]
    exact h.openBoundary hm turns hs
  | cued turns =>
    rw [applyFirstDue_boundaryOpen, openBoundary_boundaryOpen]
    exact h.applyFirstDue turns (h.openBoundary hm turns hs)
  | primed k turns =>
    have hpriming := h.toPriming hm turns hs
    rw [(actsAs_primingStage k _).eq, emitAll_nil, setCh_boundaryOpen, Machine.toPriming, cueStage_boundaryOpen,
      openBoundary_boundaryOpen, ch_setCh]
    split
    · next hk =>
      subst hk
      exact h.priming _ hpriming
    · exact hpriming
  | unmarked k turns =>
    have hopen := h.openBoundary hm turns hs
    rw [setMarkers_boundaryOpen, openBoundary_boundaryOpen, setMarkers, ch_setCh]
    split
    · next hk =>
      subst hk
      exact h.markers _ hopen
    · exact hopen
  | whole turns deferred => exact h.sampleBoundary hm turns deferred hs

end Keeps

/-! ### What the emissions of a boundary keep -/

/-- A boundary does nothing to the state but replace channels, make emissions, run the clock, take due entries off
the delivery list and open and close. -/
structure KeptByEmissions (P : State → Prop) : Prop where
  setCh : ∀ s n c, P s → P (s.setCh n c)
  emit : ∀ e s, P s → P (emit e s)
  clock : ∀ s, P s → P (s.setDev (advanceClock s.dev))
  due : ∀ s x, takeDue s.dev.counter s.cue.delivery = some x → P s → P (s.setCue { s.cue with delivery := x.2 })
  setOpen : ∀ s b, P s → P (s.setOpen b)

section Emissions

variable {P : State → Prop} (h : KeptByEmissions P) {s : State}
include h

theorem KeptByEmissions.emitAll (es : List Emission) (hs : P s) : P (emitAll es s) := by
  induction es generalizing s with
  | nil => exact hs
  | cons e es ih => exact ih (h.emit e s hs)

theorem KeptByEmissions.setAll (l : List Ch) (c : Ch → Channel) (hs : P s) : P (setAll l c s) :=
  eachCh_keeps (fun n t => h.setCh t n (c n)) l s hs

theorem KeptByEmissions.actsAs {n : Ch} {f : State → State} {c : Channel} {es : List Emission}
    (hact : ActsAs n f s c es) (hs : P s) : P (f s) := by
  rw [hact.eq]
  exact h.emitAll es (h.setCh s n c hs)

theorem KeptByEmissions.openBoundary (turns : List Ch) (hs : P s) : P (openBoundary turns s) := by
  cases ho : s.boundaryOpen with
  | true => rwa [openBoundary_open ho]
  | false =>
    obtain ⟨c, es, -, heq, -⟩ := settled_eq turns s
    obtain ⟨c', es', -, heq', -⟩ := entries_eq turns (clocked turns s)
    rw [openBoundary_closed ho, heq']
    refine h.setOpen _ _ (h.emitAll _ (h.setAll _ _ ?_))
    rw [clocked, ← settled_dev turns s, heq]
    exact h.clock _ (h.emitAll _ (h.setAll _ _ hs))

theorem KeptByEmissions.applyFirstDue (turns : List Ch) (hs : P s) : P (applyFirstDue turns s) := by
  cases hdue : takeDue s.dev.counter s.cue.delivery with
  | none => rwa [applyFirstDue_none hdue]
  | some x =>
    obtain ⟨c, es, -, heq⟩ := applyCue_eq turns x.1 (s.setCue { s.cue with delivery := x.2 })
    rw [applyFirstDue_some hdue, heq]
    exact h.emitAll _ (h.setAll _ _ (h.due s x hdue hs))

theorem KeptByEmissions.cueStage (turns : List Ch) (hs : P s) : P (cueStage turns s) := by
  suffices hdue : ∀ fuel s, P s → P (applyDue turns fuel s) from hdue _ s hs
  intro fuel
  induction fuel with
  | zero => exact fun _ hs => hs
  | succ fuel ih => exact fun s hs => ih _ (h.applyFirstDue turns hs)

theorem KeptByEmissions.toPriming (turns : List Ch) (hs : P s) : P (toPriming turns s) :=
  h.cueStage turns (h.openBoundary turns hs)

theorem KeptByEmissions.sampleBoundary (turns deferred : List Ch) (hs : P s) :
    P (sampleBoundary turns deferred s) := by
  rw [sampleBoundary_eq, toCodes_eq]
  refine h.setOpen _ _ (eachCh_keeps (fun n t ht => ?_) _ _ (h.setAll _ _ (h.toPriming turns hs)))
  obtain ⟨c, es, -, hact⟩ := actsAs_codeStage deferred n t
  exact h.actsAs hact ht

theorem KeptByEmissions.moment {t : State} (ht : MomentOutcome s t) (hs : P s) : P t := by
  cases ht with
  | same => exact hs
  | settled n =>
    obtain ⟨c, es, -, hact⟩ := actsAs_settle n s
    exact h.actsAs hact hs
  | opened turns => exact h.openBoundary turns hs
  | cued turns => exact h.applyFirstDue turns (h.openBoundary turns hs)
  | primed n turns => exact h.actsAs (actsAs_primingStage n _) (h.toPriming turns hs)
  | unmarked n turns => exact h.setCh _ _ _ (h.openBoundary turns hs)
  | whole turns deferred => exact h.sampleBoundary turns deferred hs

end Emissions

/-! ### What a boundary carries along in a channel (R80) -/

/-- What the stages before the codes leave of a channel: its settings, its mask, the records of its steps, and
the way to its pins. -/
structure Carried (c d : Channel) : Prop where
  settings : d.settings = c.settings
  mask : d.mask = c.mask
  records : d.list.map Slot.record = c.list.map Slot.record
  out : d.out = c.out

/-- What a step end leaves: the marker levels too, and the hold code but at list end under end action PARK. -/
structure Closed (c d : Channel) : Prop extends Carried c d where
  markers : d.markers = c.markers
  hold : d.hold = c.hold ∨
    (d.playback = .done ∧ d.settings.endAction = .park ∧ d.hold = d.settings.park)

theorem carried_refl (c : Channel) : Carried c c := ⟨rfl, rfl, rfl, rfl⟩

theorem Carried.trans {c d e : Channel} (h : Carried c d) (k : Carried d e) : Carried c e :=
  ⟨k.settings.trans h.settings, k.mask.trans h.mask, k.records.trans h.records, k.out.trans h.out⟩

theorem closed_refl (c : Channel) : Closed c c := { carried_refl c with markers := rfl, hold := .inl rfl }

theorem map_record_set {l : List Slot} {i : Nat} {t u : Slot} (h : l[i]? = some t) (hu : u.record = t.record) :
    (l.set i u).map Slot.record = l.map Slot.record := by
  obtain ⟨hi, rfl⟩ := List.getElem?_eq_some_iff.mp h
  rw [List.map_set, hu, ← List.getElem_map Slot.record (h := by simpa using hi), List.set_getElem_self]

theorem closed_afterStepEnd {c : Channel} {t : Slot} (h : c.list[c.run.step]? = some t) :
    Closed c (afterStepEnd t c) := by
  by_cases hin : nextIndex t c.run.step < c.list.length
  · rw [afterStepEnd_inside hin]
    exact ⟨⟨rfl, rfl, map_record_set h rfl, rfl⟩, rfl, .inl rfl⟩
  · rw [afterStepEnd_beyond (Nat.not_lt.mp hin)]
    refine ⟨⟨rfl, rfl, map_record_set h rfl, rfl⟩, rfl, ?_⟩
    by_cases hpark : c.settings.endAction = .park
    · exact .inr ⟨rfl, hpark, if_pos hpark⟩
    · exact .inl (if_neg hpark)

theorem SettleOutcome.closed {n : Ch} {s : State} {c : Channel} {es : List Emission}
    (h : SettleOutcome n s c es) : Closed (s.ch n) c := by
  cases h with
  | kept => exact closed_refl _
  | playsOn => exact ⟨⟨rfl, rfl, rfl, rfl⟩, rfl, .inl rfl⟩
  | repeatEnd t _ _ hslot =>
    have hend : Closed (repeatCounted t.record (s.ch n)) _ := closed_afterStepEnd hslot
    exact ⟨⟨hend.settings, hend.mask, hend.records, hend.out⟩, hend.markers, hend.hold⟩
  | streamEnd t _ hslot => exact closed_afterStepEnd hslot

theorem EndOutcome.closed {deferred : List Ch} {n : Ch} {why : Owed} {s : State} {c : Channel}
    {es : List Emission} (h : EndOutcome deferred n why s c es) : Closed (s.ch n) c := by
  cases h with
  | owed => exact ⟨⟨rfl, rfl, rfl, rfl⟩, rfl, .inl rfl⟩
  | resolved _ _ _ hsettle =>
    have hend := hsettle.closed
    rw [ch_setCh_same] at hend
    exact ⟨⟨hend.settings, hend.mask, hend.records, hend.out⟩, hend.markers, hend.hold⟩

/-- The stages before the codes carry along what `Carried` says. -/
theorem keptToCodes_carried (n : Ch) (m : SegMem) (c : Channel) : KeptToCodes n m fun _ d => Carried c d where
  settle := fun _ _ _ _ _ hout hc => hc.trans hout.closed.toCarried
  entry := by
    intro now d d' es hout hc
    generalize entryOf now d = o at hout
    cases hout with
    | kept => exact hc
    | entered => exact hc.trans ⟨rfl, rfl, rfl, rfl⟩
  opens := fun _ hc => hc
  cue := by
    rintro cue d d' es hout hc
    cases hout with
    | ignored => exact hc
    | _ => exact hc.trans ⟨rfl, rfl, rfl, rfl⟩
  priming := by
    intro d hc
    rw [primedChannel]
    split
    · exact hc.trans ⟨rfl, rfl, rfl, rfl⟩
    · exact hc

/-- What the code stage makes of a channel: one code presented, and what the statement says of it. -/
def PresentsOnce (c d : Channel) : Prop :=
  d.settings = c.settings ∧ d.mask = c.mask ∧ d.list.map Slot.record = c.list.map Slot.record ∧
    ∃ p : Presented, d.out = shiftPins p c.out ∧ p.markers = d.markers ∧
      (d.hold = p.code ∨ (d.playback = .done ∧ d.settings.endAction = .park ∧ d.hold = d.settings.park))

theorem presentsOnce_of_closed {c d e : Channel} {p : Presented} (hd : Closed d e) (hsettings : d.settings = c.settings)
    (hmask : d.mask = c.mask) (hlist : d.list = c.list) (hout : d.out = shiftPins p c.out)
    (hmarkers : d.markers = p.markers) (hhold : d.hold = p.code) : PresentsOnce c e :=
  ⟨hd.settings.trans hsettings, hd.mask.trans hmask, hd.records.trans (congrArg _ hlist), p, hd.out.trans hout,
    (hd.markers.trans hmarkers).symm, hd.hold.imp_left fun h => h.trans hhold⟩

theorem CodeOutcome.presentsOnce {deferred : List Ch} {n : Ch} {s : State} {c : Channel} {es : List Emission}
    (h : CodeOutcome deferred n s c es) : PresentsOnce (s.ch n) c := by
  cases h with
  | unplayed => exact ⟨rfl, rfl, rfl, ⟨_, {}⟩, rfl, rfl, .inl rfl⟩
  | memoryOn t => exact ⟨rfl, rfl, rfl, ⟨_, playedMarkers t.record _⟩, rfl, rfl, .inl rfl⟩
  | memoryEnd t _ g _ _ _ _ _ _ hend =>
    have hclosed := hend.closed
    rw [ch_setCh_same] at hclosed
    exact presentsOnce_of_closed hclosed rfl rfl rfl rfl rfl rfl
  | streamOn t => exact ⟨rfl, rfl, rfl, ⟨_, playedMarkers t.record _⟩, rfl, rfl, .inl rfl⟩
  | streamEnd t _ _ _ _ _ _ _ _ hend =>
    have hclosed := hend.closed
    rw [ch_setCh_same] at hclosed
    exact presentsOnce_of_closed hclosed rfl rfl rfl rfl rfl rfl
  | underrun t d _ _ _ _ hend =>
    have hclosed := hend.closed
    rw [ch_setCh_same] at hclosed
    exact presentsOnce_of_closed (p := ⟨(s.ch n).hold, {}⟩)
      (e := withDebt (t.record.length.getD 0 - (s.ch n).run.consumed) d)
      ⟨⟨hclosed.settings, hclosed.mask, hclosed.records, hclosed.out⟩, hclosed.markers, hclosed.hold⟩
      rfl rfl rfl rfl rfl rfl

theorem sampleBoundary_presentsOnce (turns deferred : List Ch) (s : State) (n : Ch) :
    PresentsOnce (s.ch n) ((sampleBoundary turns deferred s).ch n) := by
  obtain ⟨es, hout⟩ := sampleBoundary_ch turns deferred s n
  have hcarried : Carried (s.ch n) ((toCodes turns s).ch n) :=
    (keptToCodes_carried n s.mem (s.ch n)).toCodes rfl turns (carried_refl _)
  obtain ⟨hsettings, hmask, hrecords, p, hpins, hrest⟩ := hout.presentsOnce
  exact ⟨hsettings.trans hcarried.settings, hmask.trans hcarried.mask, hrecords.trans hcarried.records, p,
    by rw [hpins, hcarried.out], hrest⟩

/-! ### The clock and the records of a boundary -/

theorem sampleBoundary_dev (turns deferred : List Ch) (s : State) :
    (sampleBoundary turns deferred s).dev = (openBoundary turns s).dev := by
  choose c es h using fun n => actsAs_codeStage deferred n (toCodes turns s)
  rw [sampleBoundary_eq, setOpen_dev, eachCh_actsAs (channelOrder_nodup turns) (fun m _ => (h m).2), emitAll_dev,
    setAll_dev, toCodes_eq, setAll_dev, toPriming, cueStage_dev]

theorem keptByEmissions_prefix (l : List Event) : KeptByEmissions fun s => l <+: s.events.records where
  setCh := fun _ _ _ h => h
  emit := fun e s h => h.trans (emitAll_prefix [e] s)
  clock := fun _ h => h
  due := fun _ _ _ h => h
  setOpen := fun _ _ h => h

theorem advanceClock_no_switch {d : Device} (h : switchDue d = false) : advanceClock d = { d with
    counter := d.counter + 1, zeroPassed := false, refEdge := some (nextEdge d) } := by
  simp only [advanceClock, h, Bool.false_eq_true, if_false]

theorem nextEdge_of_none {d : Device} (h : switchDue d = false) (he : d.refEdge = none) : nextEdge d = 0 := by
  simp only [nextEdge, h, he, Bool.false_eq_true, if_false]

theorem nextEdge_of_some {d : Device} {e : Nat} (h : switchDue d = false) (he : d.refEdge = some e) :
    nextEdge d = (e + d.divider) % 256 := by
  simp only [nextEdge, h, he, Bool.false_eq_true, if_false]

theorem switchDue_eq_false_of_none {d : Device} (h : d.pendingDivider = none) : switchDue d = false := by
  rw [← Bool.not_eq_true, switchDue_iff]
  exact fun hx => hx.1 h

end Sys2Proof.Machine

namespace Sys2Proof.Proofs

open Sys2Proof.Machine

/-- Settles O41: the clock when the boundary opens, and one code presented by each channel's code stage. -/
theorem everyBoundaryPresentsOnce : Obligations.EveryBoundaryPresentsOnce := by
  intro turns deferred s hr
  refine ⟨_, exec_sampleBoundary turns deferred hr, sameOutside_sampleBoundary turns deferred s,
    sampleBoundary_boundaryOpen turns deferred s,
    (keptByEmissions_prefix s.events.records).sampleBoundary turns deferred List.prefix_rfl,
    fun ho => ?atOpen, fun ho => ?closed, fun n => sampleBoundary_presentsOnce turns deferred s n⟩
  case atOpen => rw [sampleBoundary_dev, openBoundary_open ho]
  case closed =>
    rw [sampleBoundary_dev, openBoundary_dev_closed ho]
    refine ⟨rfl, fun hnone => ?_, fun d e hd he => ⟨fun hlate => ?_, fun hdue hpassed => ?_⟩, fun d hd he => ?_⟩
    · have hno := switchDue_eq_false_of_none hnone
      cases he : s.dev.refEdge with
      | none => rw [advanceClock_no_switch hno, nextEdge_of_none hno he]
      | some e => rw [advanceClock_no_switch hno, nextEdge_of_some hno he]
    · have hno : switchDue s.dev = false := by
        rw [← Bool.not_eq_true, switchDue_iff]
        rintro ⟨-, hnone | ⟨e', he', hle, hzero⟩⟩
        · rw [he] at hnone
          cases hnone
        · cases Option.some.inj (he.symm.trans he')
          obtain hlt | hpassed := hlate
          · omega
          · rw [hzero] at hpassed
            cases hpassed
      rw [advanceClock_no_switch hno, nextEdge_of_some hno he]
    · have hyes : switchDue s.dev = true :=
        (switchDue_iff _).mpr ⟨by rw [hd]; exact fun h => (nomatch h), .inr ⟨e, he, hdue, hpassed⟩⟩
      rw [advanceClock_switch hyes hd]
    · have hyes : switchDue s.dev = true :=
        (switchDue_iff _).mpr ⟨by rw [hd]; exact fun h => (nomatch h), .inl he⟩
      rw [advanceClock_switch hyes hd]

end Sys2Proof.Proofs
end

section
/-! PROOF. What a message makes of one channel, what a reading makes of the temperature block, and what a full reset
leaves: the cases the invariants are proved by. -/

namespace Sys2Proof.Machine

/-! ### One channel after a message (R29 to R33, R43, R60, R64, R78, R88, R95, R132) -/

/-- What a message other than DEV-RESET can make of channel `n`. -/
inductive ChannelMessage (s : State) (n : Ch) : Channel → Prop
  | kept : ChannelMessage s n (s.ch n)
  | configured {m : Msg} {t : Settings} (ht : settingsOf m = some t) (hinactive : (s.ch n).active = false) :
      ChannelMessage s n { s.ch n with settings := t, hold := configuredHold (s.ch n) t }
  | masked (hi lo : Word) : ChannelMessage s n { s.ch n with
      mask := cueSetOf hi lo, pendingCues := (s.ch n).pendingCues &&& cueSetOf hi lo }
  | statusRead : ChannelMessage s n { s.ch n with clip := false, limit := false }
  | cleared (hinactive : (s.ch n).active = false) :
      ChannelMessage s n { s.ch n with list := [], pendingCues := 0 }
  | appended {r : StepRecord} (hr : r.inRange = true) (hroom : (s.ch n).list.length < 64) :
      ChannelMessage s n { s.ch n with list := (s.ch n).list ++ [newSlot r] }
  | replaced {idx : Nat} {r : StepRecord} (hr : r.inRange = true) (hinactive : (s.ch n).active = false) :
      ChannelMessage s n { s.ch n with list := (s.ch n).list.set idx (newSlot r) }
  | started (c : StartCond) (b : Option Counter) (hshut : (s.pr n).state ≠ .shut)
      (hinactive : (s.ch n).active = false) : ChannelMessage s n ((s.ch n).arm c b)
  | stopped (flush : Bool) : ChannelMessage s n (stopChannel flush (s.ch n))
  | streamed {xs : List Sample} (hroom : (streamTake xs (s.ch n).stream).fifo.length ≤ Config.streamCapacity) :
      ChannelMessage s n { s.ch n with stream := streamTake xs (s.ch n).stream }
  | flushed : ChannelMessage s n (s.ch n).flush

theorem ChannelMessage.of_setCh {s u : State} {n k : Ch} {c : Channel} (hu : ∀ m, u.ch m = s.ch m)
    (h : ChannelMessage s k c) : ChannelMessage s n ((u.setCh k c).ch n) := by
  by_cases hk : n = k
  · subst hk
    rwa [ch_setCh_same]
  · rw [ch_setCh_ne _ _ hk, hu]
    exact .kept

theorem ch_mapOn (s : State) (l : List Ch) (f : Channel → Channel) (n : Ch) :
    ({ s with chans := s.chans.mapOn l f } : State).ch n = if n ∈ l then f (s.ch n) else s.ch n :=
  quad_get_mapOn l f s.chans n

@[simp] theorem reportLate_ch (c : StartCond) (s : State) (n : Ch) : (reportLate c s).ch n = s.ch n := by
  cases c with
  | time t =>
    simp only [reportLate]
    split <;> rfl
  | none => rfl
  | cue => rfl

/-- A message leaves every channel in one of these ways; DEV-RESET has its own. -/
theorem MessageEffect.channel {s t : State} {k : Kind} (h : MessageEffect s k t) (hk : k ≠ .devReset) (n : Ch) :
    ChannelMessage s n (t.ch n) := by
  have hsame : ∀ m, s.ch m = s.ch m := fun _ => rfl
  cases h with
  | restarted => exact absurd rfl hk
  | defaulted => exact absurd rfl hk
  | chConfigured k ht hinactive => exact (ChannelMessage.configured ht hinactive).of_setCh hsame
  | masked k hi lo => exact (ChannelMessage.masked hi lo).of_setCh hsame
  | statusRead k => exact ChannelMessage.statusRead.of_setCh hsame
  | listCleared k hinactive => exact (ChannelMessage.cleared hinactive).of_setCh fun _ => rfl
  | appended k hr hroom => exact (ChannelMessage.appended hr hroom).of_setCh fun _ => rfl
  | replaced k hr _ hinactive => exact (ChannelMessage.replaced hr hinactive).of_setCh fun _ => rfl
  | started c hns hshut hinactive =>
    rw [reportLate_ch, eachCh_setCh hns (fun d => d.arm c (startBoundary c s.dev.counter)), ch_mapOn]
    split
    · next hn => exact .started c _ (hshut n hn) (hinactive n hn)
    · exact .kept
  | stopped flush hns =>
    rw [eachCh_setCh hns, ch_mapOn]
    split
    · exact .stopped flush
    · exact .kept
  | streamed k hroom => exact (ChannelMessage.streamed hroom).of_setCh hsame
  | streamedHigh k v hroom => exact (ChannelMessage.streamed hroom).of_setCh hsame
  | flushed k => exact ChannelMessage.flushed.of_setCh hsame
  | cueSent =>
    rw [State.ch, pushCue_chans]
    exact .kept
  | _ => exact .kept

/-! ### The temperature block after a reading (R150, R151) -/

/-- What one comparison of a reading makes of the state. -/
inductive TempOutcome (s : State) : State → Prop
  | same : TempOutcome s s
  | moved (t : DieTemp) (h : t.state ≠ .lock) : TempOutcome s (s.setTemp t)
  | told (t : DieTemp) (h : t.state ≠ .lock) (k : EventKind) (v : Option Word) :
      TempOutcome s (enterEvent k none none v (s.setTemp t))
  | locked (v : Option Word) : TempOutcome s (enterEvent .tempLock none none v (lockAll s))

theorem tempOutcome (r : Int) (s : State) : TempOutcome s (tempTransition r s) := by
  cases h : s.temp.state with
  | cool =>
    by_cases hr : r < 110
    · rw [tempTransition_cool_stays h hr]
      exact .same
    · rw [tempTransition_cool_warms h (Int.not_lt.mp hr)]
      exact .told _ (show TempState.warm ≠ .lock by decide) _ _
  | warm =>
    by_cases hlock : 140 ≤ r
    · rw [tempTransition_warm_locks h hlock]
      exact .locked _
    by_cases hcool : r ≤ 95
    · rw [tempTransition_warm_cools h hcool]
      exact .moved _ (show TempState.cool ≠ .lock by decide)
    · rw [tempTransition_warm_stays h (Int.not_le.mp hcool) (Int.not_le.mp hlock)]
      exact .same
  | lock =>
    by_cases hr : r ≤ 125
    · rw [tempTransition_lock_clears h hr]
      exact .told _ (show TempState.warm ≠ .lock by decide) _ _
    · rw [tempTransition_lock_stays h (Int.not_le.mp hr)]
      exact .same

/-- What the reading held and every comparison keep, a reading keeps. -/
theorem evaluateTemp_keeps {P : State → Prop} (hreading : ∀ s r, P s → P (holdReading r s))
    (hcompare : ∀ s t, TempOutcome s t → P s → P t) (reading : Int) {s : State} (hs : P s) :
    P (evaluateTemp reading s) :=
  hcompare _ _ (tempOutcome _ _) (hcompare _ _ (tempOutcome _ _) (hreading s _ hs))

/-! ### Segment memory after a background clear (R7) -/

/-- Segment memory when the head of the clear list has been cleared. -/
def memCleared (id : Nat) (g : Segment) (rest : List Nat) (m : SegMem) : SegMem :=
  { m with
    store := Memory.zero m.store g.base g.alloc
    segs := updateSeg m.segs id (fun h => { h with state := .opened, cleared := h.alloc })
    clearList := rest }

/-- What SEG_CLEAR_DONE makes of the state. -/
inductive ClearOutcome (s : State) : State → Prop
  | same : ClearOutcome s s
  | done {id : Nat} {rest : List Nat} {g : Segment} (hlist : s.mem.clearList = id :: rest)
      (hg : findSeg s.mem.segs id = some g) (hclearing : g.state = .clearing) :
      ClearOutcome s (enterEvent .segCleared none none (some (BitVec.ofNat 32 id))
        (s.setMem (memCleared id g rest s.mem)))

theorem clearOutcome (s : State) : ClearOutcome s (segClearDone s) := by
  unfold segClearDone
  split
  · exact .same
  · next hlist =>
    split
    · exact .same
    · next hg =>
      split
      · next hclearing => exact .done hlist hg hclearing
      · exact .same

/-! ### The protection block after a fault row (R140 to R145) -/

/-- What a fault row makes of channel `n`'s record and of the state. -/
inductive FaultOutcome (n : Ch) (s : State) : State → Prop
  | same : FaultOutcome n s s
  | timed (p : Protection) (hstate : p.state = (s.pr n).state) (henable : p.enable = (s.pr n).enable) :
      FaultOutcome n s (s.setPr n p)
  | failed (p : Protection) (hshut : (s.pr n).state ≠ .shut) (hstate : p.state = .derated)
      (henable : p.enable = (s.pr n).enable) (k : EventKind) (i : Option Nat) :
      FaultOutcome n s (enterEvent k (some n) i none (s.setPr n p))
  | shut (p : Protection) (hstate : p.state = .shut) (henable : p.enable = false) (i : Option Nat) (v : Word) :
      FaultOutcome n s (enterEvent .shutdown (some n) i (some v) ((s.setPr n p).setCh n (s.ch n).toIdle))

theorem faultOutcome_assert (n : Ch) (s : State) : FaultOutcome n s (faultAssert n s) := by
  cases h : (s.pr n).asserted with
  | false =>
    rw [faultAssert_released h]
    exact .timed _ rfl rfl
  | true =>
    rw [faultAssert_asserted h]
    exact .same

theorem faultOutcome_qualified (n : Ch) (s : State) : FaultOutcome n s (faultQualified n s) := by
  by_cases h : (s.pr n).qual = .running
  · have hpr : (s.setPr n { s.pr n with qual := .qualified }).pr n = { s.pr n with qual := .qualified } :=
      pr_setPr_same ..
    rw [faultQualified_running h]
    by_cases hfirst : (s.pr n).state = .normal ∨ ((s.pr n).state = .derated ∧ (s.pr n).cause = .temp)
    · rw [takeQualified_first (by rw [hpr]; exact hfirst), firstFailure_setPr]
      have hshut : (s.pr n).state ≠ .shut := fun hshut => by
        rw [hshut] at hfirst
        exact hfirst.elim (fun h => nomatch h) fun h => nomatch h.1
      exact .failed { s.pr n with qual := .qualified, state := .derated, cause := .fault, escalating := true }
        hshut rfl rfl _ _
    · obtain ⟨hnormal, htemp⟩ := not_or.mp hfirst
      cases hstate : (s.pr n).state with
      | normal => exact absurd hstate hnormal
      | derated =>
        rw [takeQualified_second (by rw [hpr]; exact hstate) (by rw [hpr]; exact fun h => htemp ⟨hstate, h⟩),
          shutDown_setPr]
        exact .shut _ rfl rfl _ _
      | shut =>
        rw [takeQualified_shut (by rw [hpr]; exact hstate)]
        exact .timed _ rfl rfl
  · rw [faultQualified_idle h]
    exact .same

theorem faultOutcome_expiry (n : Ch) (s : State) : FaultOutcome n s (escalationExpiry n s) := by
  by_cases h : (s.pr n).escalating = true ∧ (s.pr n).state = .derated ∧ (s.pr n).cause = .fault
  · rw [escalationExpiry_expires h]
    exact .shut _ rfl rfl _ _
  · rw [escalationExpiry_other (by
      simpa only [not_and_or, Bool.not_eq_true] using h)]
    exact .same

/-! ### Every step -/

/-- Every part of a step keeps `P`: the moments of a boundary, the messages, the rows that carry none and the
resets. -/
structure KeptByParts (P : State → Prop) : Prop where
  pending : ∀ s l, P s → P { s with pending := l }
  link : ∀ s l, P s → P (s.setLink l)
  moment : ∀ s t, s.resetHeld = false → MomentOutcome s t → P s → P t
  effect : ∀ k s t, s.resetHeld = false → s.boundaryOpen = false → (k.lockable = true → s.temp.state ≠ .lock) →
    k ≠ .devReset → MessageEffect s k t → P s → P t
  restart : ∀ s, s.resetHeld = false → s.boundaryOpen = false → P s → P (devResetPlayback s).state
  row : ∀ c s, carriesMessage c = false → s.resetHeld = false → s.boundaryOpen = false → P s → P (actionOf c s)
  assert : ∀ s, s.resetHeld = false → s.boundaryOpen = false → P s → P (pinResetAssert s)
  default : ∀ reading s, s.resetHeld = false → s.boundaryOpen = false → P s →
    P (evaluateTemp reading (freshForAll reading s))
  fresh : ∀ p s, P s → P (evaluateTemp p.reading (defaults p s))

theorem keptByStep_of_parts {P : State → Prop} (h : KeptByParts P) : KeptByStep P := by
  refine keptByStep_of h.pending (fun c s hr => h.moment s _ hr (momentOutcome c s))
    (actionOf_keeps h.link (fun k s t hr ho hlock he hs => ?_) h.assert h.row)
    (fun cause p s hs => h.link _ _ (h.fresh p s hs))
  by_cases hk : k = .devReset
  · subst hk
    cases he with
    | same => exact hs
    | restarted => exact h.restart s hr ho hs
    | defaulted reading =>
      rw [devResetAll_state]
      exact h.default reading s hr ho hs
  · exact h.effect k s t hr ho hlock hk he hs

end Sys2Proof.Machine
end

section
/-! PROOF. Every step keeps SHUT channels IDLE and disabled, the strobes running out of reset, and LOCK's channels
derated (R82, R145, R149, R151). -/

namespace Sys2Proof.Machine

/-! ### The invariant out of reset -/

/-- A channel and its protection record as the invariant has them while the part runs. -/
structure Guarded (t : TempState) (p : Protection) (c : Channel) : Prop where
  enable : p.enable = (p.state != .shut)
  idle : p.state = .shut → c.playback = .idle
  strobe : c.out.strobe = .runs
  lock : t = .lock → p.state ≠ .normal

/-- Every channel and protection record so. -/
def AllGuarded (s : State) : Prop := ∀ n, Guarded s.temp.state (s.pr n) (s.ch n)

theorem protection_iff {s : State} (hr : s.resetHeld = false) :
    ShutOk s ∧ StrobeOk s ∧ LockOk s ↔ AllGuarded s := by
  have hstrobe : ∀ o : Strobe, (o = .heldLow ↔ s.resetHeld = true) ↔ o = .runs := fun o => by
    cases o <;> simp [hr]
  constructor
  · rintro ⟨hshut, hst, hlock⟩ n
    obtain ⟨henable, hidle⟩ := hshut n
    exact ⟨by rw [henable, hr]; rfl, hidle, (hstrobe _).mp (hst n).1, fun h => hlock h n⟩
  · refine fun h => ⟨fun n => ⟨?_, (h n).idle⟩, fun n => ⟨(hstrobe _).mpr (h n).strobe, fun hheld => ?_⟩,
      fun hlock n => (h n).lock hlock⟩
    · rw [(h n).enable, hr]
      rfl
    · rw [hr] at hheld
      cases hheld

theorem AllGuarded.congr {s t : State} (h : AllGuarded s) (htemp : t.temp = s.temp) (hprot : t.prot = s.prot)
    (hchans : t.chans = s.chans) : AllGuarded t := fun n => by
  have hn := h n
  rwa [State.pr, State.ch, htemp, hprot, hchans]

theorem AllGuarded.of_touches {s t : State} {b : Blocks} (h : AllGuarded s) (ht : Touches b s t)
    (htemp : b.temp = false) (hprot : b.prot = false) (hchans : b.chans = false) : AllGuarded t :=
  h.congr (ht.temp.resolve_left (by simp [htemp])) (ht.prot.resolve_left (by simp [hprot]))
    (ht.chans.resolve_left (by simp [hchans]))

theorem AllGuarded.enterEvent {s : State} (h : AllGuarded s) (k : EventKind) (c : Option Ch) (i : Option Nat)
    (v : Option Word) : AllGuarded (enterEvent k c i v s) := h.congr rfl rfl rfl

/-! ### A boundary and its moments -/

/-- An IDLE channel stays IDLE through a boundary. -/
theorem keptByStages_idle (n : Ch) (m : SegMem) : KeptByStages n m fun _ c => c.playback = .idle where
  settle := by
    intro b s c es _ hout hidle
    have howes : (s.ch n).owes = .nothing := owes_eq_of_not_running (by rw [hidle]; decide)
    cases hout with
    | kept => exact hidle
    | playsOn _ _ ho =>
      rw [howes] at ho
      cases ho
    | repeatEnd _ _ ho =>
      rw [howes] at ho
      cases ho
    | streamEnd _ ho =>
      rw [howes] at ho
      cases ho
  entry := by
    intro now c c' es hout hidle
    have hnone : entryOf now c = none := by simp [entryOf, hidle]
    generalize entryOf now c = o at hout hnone
    cases hout with
    | kept => exact hidle
    | entered => cases hnone
  opens := fun _ h => h
  cue := by
    intro cue c c' es hout hidle
    cases hout with
    | ignored => exact hidle
    | cleared => exact hidle
    | stopped => rfl
    | started t harmed =>
      rw [hidle] at harmed
      cases harmed
    | waitEnded => exact hidle
    | leaves => exact hidle
    | kept => exact hidle
  priming := by
    intro c hidle
    rw [primedChannel]
    split <;> exact hidle
  markers := fun _ h => h
  codes := by
    intro deferred s c es _ hout hidle
    have hno : ∀ t, ¬ Playing (s.ch n) t := fun t ht => by
      rw [ht.1] at hidle
      cases hidle
    cases hout with
    | unplayed => exact hidle
    | memoryOn t _ _ h => exact absurd h (hno t)
    | memoryEnd t _ _ _ _ h => exact absurd h (hno t)
    | streamOn t _ _ h => exact absurd h (hno t)
    | streamEnd t _ _ _ _ h => exact absurd h (hno t)
    | underrun t _ _ h => exact absurd h (hno t)

/-- The strobe of a channel is no stage's business. -/
theorem keptByStages_strobe (n : Ch) (m : SegMem) (o : Strobe) :
    KeptByStages n m fun _ c => c.out.strobe = o where
  settle := fun _ _ _ _ _ hout h => by rw [hout.closed.out, h]
  entry := by
    intro now c c' es hout h
    generalize entryOf now c = o at hout
    cases hout with
    | kept => exact h
    | entered => exact h
  opens := fun _ h => h
  cue := fun _ _ _ _ hout h => by
    cases hout with
    | ignored => exact h
    | _ => exact h
  priming := by
    intro c h
    rw [primedChannel]
    split <;> exact h
  markers := fun _ h => h
  codes := by
    intro deferred s c es _ hout h
    obtain ⟨-, -, -, p, hpins, -⟩ := hout.presentsOnce
    rw [hpins]
    exact h

/-- Outside the channels, the queues and the clock a moment changes nothing. -/
theorem MomentOutcome.sameOutside {s t : State} (h : MomentOutcome s t) : SameOutside s t := by
  cases h with
  | same => exact sameOutside_refl s
  | settled n => exact sameOutside_settle n s
  | opened turns => exact sameOutside_openBoundary turns s
  | cued turns => exact sameOutside_trans (sameOutside_openBoundary turns s) (sameOutside_applyFirstDue turns _)
  | primed n turns =>
    exact sameOutside_trans (sameOutside_openBoundary turns s)
      (sameOutside_trans (sameOutside_cueStage turns _) (sameOutside_primingStage n _))
  | unmarked n turns => exact sameOutside_trans (sameOutside_openBoundary turns s) (sameOutside_setCh _ _ _)
  | whole turns deferred => exact sameOutside_sampleBoundary turns deferred s

theorem AllGuarded.moment {s t : State} (h : AllGuarded s) (ht : MomentOutcome s t) : AllGuarded t := by
  obtain ⟨-, hprot, htemp, -⟩ := ht.sameOutside
  intro n
  have hpr : t.pr n = s.pr n := congrArg (fun q : Quad Protection => q.get n) hprot
  rw [hpr, htemp]
  exact ⟨(h n).enable, fun hshut => (keptByStages_idle n s.mem).moment rfl ht ((h n).idle hshut),
    (keptByStages_strobe n s.mem .runs).moment rfl ht (h n).strobe, (h n).lock⟩

/-! ### Messages -/

theorem ChannelMessage.guarded {s : State} {n : Ch} {c : Channel} (h : ChannelMessage s n c)
    (hs : Guarded s.temp.state (s.pr n) (s.ch n)) : Guarded s.temp.state (s.pr n) c := by
  obtain ⟨henable, hidle, hstrobe, hlock⟩ := hs
  cases h with
  | started c b hshut => exact ⟨henable, fun h => absurd h hshut, hstrobe, hlock⟩
  | stopped flush => cases flush <;> exact ⟨henable, fun _ => rfl, hstrobe, hlock⟩
  | _ => exact ⟨henable, hidle, hstrobe, hlock⟩

theorem guarded_restored {t : TempState} {p : Protection} {c : Channel} (ht : t ≠ .lock) (h : Guarded t p c) :
    Guarded t (restored p) c := by
  by_cases hn : p.state = .normal
  · rw [restored, if_pos hn]
    exact h
  · rw [restored, if_neg hn]
    exact ⟨rfl, fun h => (nomatch h), h.strobe, fun h => absurd h ht⟩

theorem blocks_protection {k : Kind} (hk : k ≠ .devReset) (hk' : k ≠ .chRestore) :
    k.blocks.temp = false ∧ k.blocks.prot = false := by
  cases k <;> simp_all [Kind.blocks]

/-- A message other than CH-RESTORE and DEV-RESET touches neither the protection nor the temperature block. -/
theorem MessageEffect.protection {s t : State} {k : Kind} (h : MessageEffect s k t) (hr : s.resetHeld = false)
    (ho : s.boundaryOpen = false) (hk : k ≠ .devReset) (hk' : k ≠ .chRestore) :
    t.temp = s.temp ∧ t.prot = s.prot := by
  have ht := h.touches hr ho
  obtain ⟨htemp, hprot⟩ := blocks_protection hk hk'
  exact ⟨ht.temp.resolve_left (by simp [htemp]), ht.prot.resolve_left (by simp [hprot])⟩

theorem AllGuarded.message {s t : State} {k : Kind} (h : AllGuarded s) (he : MessageEffect s k t)
    (hr : s.resetHeld = false) (ho : s.boundaryOpen = false) (hlock : k.lockable = true → s.temp.state ≠ .lock)
    (hk : k ≠ .devReset) : AllGuarded t := by
  by_cases hk' : k = .chRestore
  · subst hk'
    cases he with
    | same => exact h
    | restored n =>
      intro m
      rw [pr_setPr]
      split
      · next hm =>
        subst hm
        exact guarded_restored (hlock rfl) (h m)
      · exact h m
  · obtain ⟨htemp, hprot⟩ := he.protection hr ho hk hk'
    intro n
    have hpr : t.pr n = s.pr n := congrArg (fun q : Quad Protection => q.get n) hprot
    rw [htemp, hpr]
    exact (he.channel hk n).guarded (h n)

/-! ### Rows of the protection and temperature blocks -/

theorem AllGuarded.setPr {s : State} {n : Ch} {p : Protection} (h : AllGuarded s)
    (hp : Guarded s.temp.state p (s.ch n)) : AllGuarded (s.setPr n p) := fun m => by
  rw [pr_setPr]
  split
  · next hm =>
    subst hm
    exact hp
  · exact h m

theorem AllGuarded.fault {s t : State} {n : Ch} (h : AllGuarded s) (ht : FaultOutcome n s t) : AllGuarded t := by
  obtain ⟨henable, hidle, hstrobe, hlock⟩ := h n
  cases ht with
  | same => exact h
  | timed p hst hen =>
    refine h.setPr ⟨?_, ?_, hstrobe, ?_⟩
    · rw [hen, hst, henable]
    · rw [hst]
      exact hidle
    · rw [hst]
      exact hlock
  | failed p hshut hst hen =>
    refine (h.setPr ⟨?_, ?_, hstrobe, ?_⟩).enterEvent _ _ _ _
    · rw [hen, hst, henable, bne_iff_ne.mpr hshut]
      rfl
    · rw [hst]
      exact fun h => nomatch h
    · rw [hst]
      exact fun _ h => nomatch h
  | shut p hst hen =>
    refine AllGuarded.enterEvent (fun m => ?_) _ _ _ _
    rw [setCh_pr, pr_setPr, ch_setCh]
    split
    · refine ⟨by rw [hen, hst]; rfl, fun _ => rfl, hstrobe, ?_⟩
      rw [hst]
      exact fun _ h => nomatch h
    · exact h m

theorem guarded_lockDerate {t : TempState} {p : Protection} {c : Channel} (h : Guarded t p c) (t' : TempState) :
    Guarded t' (lockDerate p) c := by
  by_cases hn : p.state = .normal
  · rw [lockDerate, if_pos hn]
    refine ⟨?_, fun h => (nomatch h), h.strobe, fun _ h => nomatch h⟩
    have henable := h.enable
    rw [hn] at henable
    exact henable
  · rw [lockDerate, if_neg hn]
    exact ⟨h.enable, h.idle, h.strobe, fun _ => hn⟩

theorem AllGuarded.setTemp {s : State} {t : DieTemp} (h : AllGuarded s) (ht : t.state = .lock → s.temp.state = .lock) :
    AllGuarded (s.setTemp t) := fun n =>
  ⟨(h n).enable, (h n).idle, (h n).strobe, fun hlock => (h n).lock (ht hlock)⟩

theorem AllGuarded.temp {s t : State} (h : AllGuarded s) (ht : TempOutcome s t) : AllGuarded t := by
  cases ht with
  | same => exact h
  | moved t hne => exact h.setTemp fun hlock => absurd hlock hne
  | told t hne => exact (h.setTemp fun hlock => absurd hlock hne).enterEvent _ _ _ _
  | locked =>
    refine AllGuarded.enterEvent (fun n => ?_) _ _ _ _
    have hpr : (lockAll s).pr n = lockDerate (s.pr n) := get_mapProt lockDerate s.prot n
    rw [hpr]
    exact guarded_lockDerate (h n) _

theorem AllGuarded.reading {s : State} (h : AllGuarded s) (r : Int) : AllGuarded (evaluateTemp r s) :=
  evaluateTemp_keeps (fun _ _ h => h.setTemp id) (fun _ _ ht h => h.temp ht) r h

theorem AllGuarded.row {s : State} {c : Instr} (h : AllGuarded s) (hc : carriesMessage c = false) :
    AllGuarded (actionOf c s) := by
  cases c
  case faultAssert n => exact h.fault (faultOutcome_assert n s)
  case faultRelease n => exact h.fault (.timed { s.pr n with asserted := false, qual := .stopped, escalating := false } rfl rfl)
  case faultQualified n => exact h.fault (faultOutcome_qualified n s)
  case escalationExpiry n => exact h.fault (faultOutcome_expiry n s)
  case tempReading r => exact h.reading r
  all_goals exact h.of_touches (touches_actionOf hc s) rfl rfl rfl

/-! ### Resets -/

theorem guarded_default {p : Pins} {keeps : Bool} {u : State} (hu : AtDefaults p keeps u)
    (hstrobe : ∀ n, (u.ch n).out.strobe = .runs) : AllGuarded u := by
  intro n
  obtain ⟨out, hch⟩ := hu.chans n
  rw [hu.pr, hu.temp]
  exact ⟨rfl, fun h => (nomatch h), hstrobe n, fun h => nomatch h⟩

end Sys2Proof.Machine

namespace Sys2Proof.Proofs

open Sys2Proof.Machine

/-- Settles O60: out of reset it is a property of each channel and its record; RESET# held low sets it anew. -/
theorem protectionKept : Obligations.ProtectionKept := by
  have hrunning : ∀ s t : State, s.resetHeld = false → t.resetHeld = false →
      (AllGuarded s → AllGuarded t) → ShutOk s ∧ StrobeOk s ∧ LockOk s → ShutOk t ∧ StrobeOk t ∧ LockOk t :=
    fun s t hr hr' h hs => (protection_iff hr').mpr (h ((protection_iff hr).mp hs))
  refine keptByStep_of_parts ⟨fun _ _ h => h, fun _ _ h => h, fun s t hr ht => ?moment,
    fun k s t hr ho hlock hk he => ?message, fun s hr _ => ?restart, fun c s hc hr ho => ?row,
    fun s hr _ hs => ?assert, fun reading s hr _ => ?default, fun p s _ => ?fresh⟩
  case moment =>
    obtain ⟨-, -, -, -, hheld, -⟩ := ht.sameOutside
    exact hrunning s t hr (hheld.trans hr) fun h => h.moment ht
  case message =>
    exact hrunning s t hr ((he.touches hr ho).held.trans hr) fun h => h.message he hr ho hlock hk
  case restart =>
    refine hrunning s _ hr hr fun h n => ?_
    have hch : (devResetPlayback s).state.ch n = (s.ch n).restart := get_mapCh Channel.restart s.chans n
    rw [hch]
    exact ⟨(h n).enable, fun _ => rfl, (h n).strobe, (h n).lock⟩
  case row => exact hrunning s _ hr ((touches_actionOf hc s).held.trans hr) fun h => h.row hc
  case assert =>
    obtain ⟨hshut, -, hlock⟩ := hs
    have hch : ∀ n, (pinResetAssert s).ch n = holdPins (s.ch n) := get_mapCh holdPins s.chans
    have hpr : ∀ n, (pinResetAssert s).pr n = disable (s.pr n) := get_mapProt disable s.prot
    refine ⟨fun n => ?_, fun n => ?_, fun h n => ?_⟩
    · rw [hch, hpr]
      exact ⟨rfl, (hshut n).2⟩
    · rw [hch]
      exact ⟨⟨fun _ => rfl, fun _ => rfl⟩, fun _ => rfl⟩
    · rw [hpr]
      exact hlock h n
  case default =>
    have hu := atDefaults_freshForAll reading s
    obtain ⟨-, -, -, -, -, hr', -⟩ := hu.kept reading
    refine hrunning s _ hr hr' fun h => (guarded_default hu fun n => ?_).reading reading
    have hout : ((freshForAll reading s).ch n).out = (s.ch n).out :=
      (congrArg Channel.out (get_keepPins s.chans _ n)).trans rfl
    rw [hout]
    exact (h n).strobe
  case fresh =>
    have hu := atDefaults_defaults p s
    obtain ⟨-, -, -, -, -, hr', -⟩ := hu.kept p.reading
    refine (protection_iff hr').mpr ((guarded_default hu fun n => ?_).reading p.reading)
    cases n <;> rfl

end Sys2Proof.Proofs
end

section
/-! PROOF. Every step keeps the three queues within their sizes, cue 0 in its place, and ATTN# as its mode says
(R111, R118, R168, R169, R180, R181). -/

namespace Sys2Proof.Machine

/-! ### The event queue and ATTN# -/

/-- The event queue while the part runs: 32 records at most, ATTN# as the mode says. -/
structure AttnGood (mode : AttnMode) (q : EventQueue) : Prop where
  room : q.records.length ≤ 32
  level : mode = .level → q.attn = !q.records.isEmpty ∧ q.pulse = false
  pulse : mode = .pulse → q.attn = q.pulse

theorem attnGood_offerEvent {mode : AttnMode} {q : EventQueue} (h : AttnGood mode q) (e : Event) :
    AttnGood mode (offerEvent e mode q) := by
  refine ⟨offerEvent_length h.room, ?_, ?_⟩
  all_goals
    intro hmode
    rw [offerEvent]
    split
  · exact h.level hmode
  · rw [hmode]
    exact ⟨by simp, (h.level hmode).2⟩
  · exact h.pulse hmode
  · rfl

theorem attnGood_empty (mode : AttnMode) : AttnGood mode {} :=
  ⟨Nat.zero_le _, fun _ => ⟨rfl, rfl⟩, fun _ => rfl⟩

theorem attnGood_readEvents {mode : AttnMode} {q : EventQueue} (h : AttnGood mode q) (r : Nat) :
    AttnGood mode (readEvents r mode q) := by
  have hroom := h.room
  refine ⟨?_, fun hmode => ⟨if_pos hmode, (h.level hmode).2⟩, fun hmode => ?_⟩
  · simp only [readEvents, List.length_drop]
    omega
  · rw [readEvents, if_neg (by rw [hmode]; decide)]
    exact h.pulse hmode

theorem attnGood_switchAttn {old new : AttnMode} {q : EventQueue} (h : AttnGood old q) :
    AttnGood new (switchAttn old new q) := by
  cases old with
  | level =>
    obtain ⟨hattn, hpulse⟩ := h.level rfl
    cases new with
    | level => exact h
    | pulse => exact ⟨h.room, fun hmode => (nomatch hmode), fun _ => hpulse.symm⟩
  | pulse =>
    cases new with
    | level => exact ⟨h.room, fun _ => ⟨rfl, rfl⟩, fun hmode => nomatch hmode⟩
    | pulse => exact h

theorem attnGood_attnPulseEnd {mode : AttnMode} {q : EventQueue} (h : AttnGood mode q) (hp : q.pulse = true) :
    AttnGood mode { q with attn := false, pulse := false } := by
  refine ⟨h.room, fun hmode => ?_, fun _ => rfl⟩
  rw [(h.level hmode).2] at hp
  cases hp

/-! ### The send queue and its cue 0 entry (R118) -/

/-- The send queue while the part runs: 8 entries at most, one of cue 0 at most, at the head or second behind a
frame in flight. -/
structure SendGood (sending : Bool) (q : List SendEntry) : Prop where
  room : q.length ≤ 8
  one : q.countP (fun e => e.cue == 0) ≤ 1
  place : ∀ i e, q[i]? = some e → e.cue = 0 → i = 0 ∨ (i = 1 ∧ sending = true)

theorem sendGood_nil (sending : Bool) : SendGood sending [] :=
  ⟨Nat.zero_le _, Nat.zero_le _, fun _ _ h => by simp at h⟩

/-- A frame taken into flight gives the queue more room, never less. -/
theorem SendGood.sending {b : Bool} {q : List SendEntry} (h : SendGood b q) : SendGood true q :=
  ⟨h.room, h.one, fun i e hi he => (h.place i e hi he).imp_right fun hx => ⟨hx.1, rfl⟩⟩

theorem SendGood.tail {b b' : Bool} {x : SendEntry} {q : List SendEntry} (h : SendGood b (x :: q)) :
    SendGood b' q := by
  refine ⟨by have := h.room; simp at this; omega, le_trans ?_ h.one, fun i e hi he => .inl ?_⟩
  · rw [List.countP_cons]
    omega
  · obtain hplace | ⟨hplace, -⟩ := h.place (i + 1) e hi he <;> omega

/-- Beyond the head there is a cue 0 entry second at most, and none where the head is one. -/
theorem SendGood.cons_iff {b : Bool} {x : SendEntry} {q : List SendEntry} : SendGood b (x :: q) ↔
    q.length ≤ 7 ∧ (q.countP (fun e => e.cue == 0) ≤ if x.cue = 0 then 0 else 1) ∧
      ∀ i e, q[i]? = some e → e.cue = 0 → i = 0 ∧ b = true := by
  constructor
  · intro h
    have hroom := h.room
    have hone := h.one
    rw [List.length_cons] at hroom
    rw [List.countP_cons] at hone
    refine ⟨by omega, ?_, fun i e hi he => ?_⟩
    · by_cases hx : x.cue = 0
      · rw [if_pos hx]
        rw [if_pos (by simpa using hx)] at hone
        omega
      · rw [if_neg hx]
        omega
    · obtain hplace | ⟨hplace, hb⟩ := h.place (i + 1) e hi he
      · omega
      · exact ⟨by omega, hb⟩
  · rintro ⟨hroom, hone, hplace⟩
    refine ⟨by rw [List.length_cons]; omega, ?_, fun i e hi he => ?_⟩
    · rw [List.countP_cons]
      by_cases hx : x.cue = 0
      · rw [if_pos hx] at hone
        split <;> omega
      · rw [if_neg hx] at hone
        rw [if_neg (by simpa using hx)]
        omega
    · cases i with
      | zero => exact .inl rfl
      | succ i =>
        obtain ⟨rfl, hb⟩ := hplace i e hi he
        exact .inr ⟨rfl, hb⟩

theorem countP_cue0_eq_zero {q : List SendEntry} : q.countP (fun e => e.cue == 0) = 0 ↔ ∀ e ∈ q, e.cue ≠ 0 := by
  simp [List.countP_eq_zero]

theorem sendGood_placeEntry {b : Bool} {q : List SendEntry} {e : SendEntry} (h : SendGood b q)
    (hroom : q.length < 8) (hmerge : e.cue = 0 → ∀ x ∈ q, x.cue ≠ 0) : SendGood b (placeEntry e b q) := by
  by_cases he : e.cue = 0
  · have hnone := hmerge he
    have hahead : SendGood b (e :: q) := SendGood.cons_iff.mpr ⟨by omega, by rw [if_pos he, countP_cue0_eq_zero.mpr hnone],
      fun i x hi hx => absurd hx (hnone x (List.mem_of_getElem? hi))⟩
    cases q with
    | nil =>
      have hplace : placeEntry e b [] = [e] := by cases b <;> exact if_pos he
      rwa [hplace]
    | cons x q =>
      cases b with
      | false => rwa [placeEntry_cue0_idle he]
      | true =>
        rw [placeEntry_cue0_sending he]
        refine SendGood.cons_iff.mpr ⟨Nat.lt_succ_iff.mp hroom, ?_, fun i y hi hy => ⟨?_, rfl⟩⟩
        · rw [if_neg (hnone x (by simp)), List.countP_cons,
            countP_cue0_eq_zero.mpr fun y hy => hnone y (List.mem_cons_of_mem _ hy)]
          split <;> omega
        · cases i with
          | zero => rfl
          | succ i => exact absurd hy (hnone y (List.mem_cons_of_mem _ (List.mem_of_getElem? hi)))
  · rw [placeEntry_other b he]
    refine ⟨by rw [List.length_append, List.length_singleton]; omega, ?_, fun i x hi hx => ?_⟩
    · rw [List.countP_append, List.countP_cons, if_neg (by simpa using he)]
      exact h.one
    · obtain hlt | hge := Nat.lt_or_ge i q.length
      · rw [List.getElem?_append_left hlt] at hi
        exact h.place i x hi hx
      · rw [List.getElem?_append_right hge] at hi
        have hmem := List.mem_of_getElem? hi
        rw [List.mem_singleton] at hmem
        exact absurd (hmem ▸ hx) he

theorem sendGood_yieldToCue0 {b : Bool} {x y : SendEntry} {q : List SendEntry} (h : SendGood b (x :: q))
    (hy : y.cue = x.cue) : SendGood false (yieldToCue0 (y :: q)) := by
  obtain ⟨hroom, hone, hplace⟩ := SendGood.cons_iff.mp h
  cases q with
  | nil => exact SendGood.cons_iff.mpr ⟨hroom, Nat.zero_le _, fun _ _ hi => by simp at hi⟩
  | cons e rest =>
    have hrest : ∀ z ∈ rest, z.cue ≠ 0 := fun z hz hz0 => by
      obtain ⟨i, hi⟩ := List.mem_iff_getElem?.mp hz
      obtain ⟨hi0, -⟩ := hplace (i + 1) z hi hz0
      omega
    rw [yieldToCue0]
    split
    · next he =>
      have hx : x.cue ≠ 0 := fun hx => by
        rw [if_pos hx, Nat.le_zero, countP_cue0_eq_zero] at hone
        exact hone e (by simp) he
      have hall : ∀ z ∈ y :: rest, z.cue ≠ 0 := by
        intro z hz
        obtain rfl | hz := List.mem_cons.mp hz
        · rw [hy]
          exact hx
        · exact hrest z hz
      exact SendGood.cons_iff.mpr ⟨hroom, by rw [countP_cue0_eq_zero.mpr hall]; exact Nat.zero_le _,
        fun i z hi hz => absurd hz (hall z (List.mem_of_getElem? hi))⟩
    · next he =>
      have hall : ∀ z ∈ e :: rest, z.cue ≠ 0 := by
        intro z hz
        obtain rfl | hz := List.mem_cons.mp hz
        · exact he
        · exact hrest z hz
      exact SendGood.cons_iff.mpr ⟨hroom, by rw [countP_cue0_eq_zero.mpr hall]; exact Nat.zero_le _,
        fun i z hi hz => absurd hz (hall z (List.mem_of_getElem? hi))⟩

/-! ### A frame stays in flight through every move of the line -/

theorem enterPhase_inFlight (p : SendPhase) (c : CueController) :
    (enterPhase p c).inFlight = c.inFlight.map fun f => { f with phase := p } := by
  unfold enterPhase
  cases h : c.inFlight with
  | none => exact h
  | some f => cases p <;> rfl

theorem enterPhase_isSome (p : SendPhase) (c : CueController) :
    (enterPhase p c).inFlight.isSome = c.inFlight.isSome := by
  rw [enterPhase_inFlight, Option.isSome_map]

/-- The phase a sender's frame comes to at the levels it reads, if it does not stay where it is; `drives` says for
which bits the sender drives CUEDT low (R107 to R110). -/
def sensed (ckLow dtLow : Bool) (drives : Nat → Bool) : SendPhase → Option SendPhase
  | .startHold => if ckLow then some (.low 0) else none
  | .wait j => if ckLow then none else some (if dtLow && !drives j then .lost else .high j)
  | .high j =>
    if ckLow then some (if j < 7 then .low (j + 1) else .lost)
    else if dtLow && !drives j then some .lost else none
  | .stopTest => if ckLow then some .lost else if dtLow then none else some .made
  | .low _ | .made | .lost => none

theorem obey_eq {c : CueController} {x : HalfPeriod} {p : SendPhase} (h : c.inFlight = some ⟨x, p⟩) :
    obey c = (sensed c.ck.low c.dt.low (drivesBit c) p).elim c (fun q => enterPhase q c) := by
  simp only [obey, h]
  cases p with
  | startHold =>
    simp only [sensed]
    split <;> rfl
  | wait j =>
    simp only [sensed]
    split <;> rfl
  | high j =>
    simp only [sensed]
    split
    · rfl
    · split <;> rfl
  | stopTest =>
    simp only [sensed]
    split
    · rfl
    · split <;> rfl
  | _ => rfl

theorem obey_none {c : CueController} (h : c.inFlight = none) : obey c = c := by simp only [obey, h]

/-- The phase that follows the end of an H that a phase is timed by (R107, R108, R110). -/
def timed : SendPhase → Option SendPhase
  | .startHold => some (.low 0)
  | .low j => some (.wait j)
  | .high j => some (if j < 7 then .low (j + 1) else .stopTest)
  | .stopTest => some .lost
  | .wait _ | .made | .lost => none

theorem holdOver_eq {c : CueController} {x : HalfPeriod} {p : SendPhase} (h : c.inFlight = some ⟨x, p⟩) :
    holdOver c = (timed p).elim c (fun q => enterPhase q c) := by
  simp only [holdOver, h]
  cases p <;> rfl

theorem obey_isSome (c : CueController) : (obey c).inFlight.isSome = c.inFlight.isSome := by
  obtain hf | ⟨⟨x, p⟩, hf⟩ := Option.eq_none_or_eq_some c.inFlight
  · rw [obey_none hf]
  · rw [obey_eq hf]
    cases sensed c.ck.low c.dt.low (drivesBit c) p with
    | none => rfl
    | some q => exact enterPhase_isSome q c

theorem holdOver_isSome (c : CueController) : (holdOver c).inFlight.isSome = c.inFlight.isSome := by
  obtain hf | ⟨⟨x, p⟩, hf⟩ := Option.eq_none_or_eq_some c.inFlight
  · simp only [holdOver, hf]
    exact congrArg Option.isSome hf
  · rw [holdOver_eq hf]
    cases timed p with
    | none => rfl
    | some q => exact enterPhase_isSome q c

theorem setOthers_inFlight (l : CueLine) (b : Bool) (c : CueController) :
    (setOthers l b c).inFlight = c.inFlight := by cases l <;> rfl

theorem follow_isSome (b c : CueController) : (follow b c).inFlight.isSome = c.inFlight.isSome :=
  obey_isSome _

theorem lineMove_isSome (m : LineMove) (c : CueController) :
    (lineMove m c).inFlight.isSome = c.inFlight.isSome := by
  unfold lineMove
  split
  · rfl
  · cases m with
    | pull l => exact (follow_isSome _ _).trans (congrArg _ (setOthers_inFlight l true c))
    | release l => exact (follow_isSome _ _).trans (congrArg _ (setOthers_inFlight l false c))
    | holdEnds => exact (follow_isSome _ _).trans (holdOver_isSome c)
    | idleEnough => exact follow_isSome _ _

theorem lineMoves_isSome (ms : List LineMove) (c : CueController) :
    (lineMoves ms c).inFlight.isSome = c.inFlight.isSome :=
  lineMoves_keeps (P := fun d => d.inFlight.isSome = c.inFlight.isSome)
    (fun m d h => (lineMove_isSome m d).trans h) ms c rfl

/-! ### The invariant out of reset -/

/-- The queues and ATTN# while the part runs. -/
structure QueuesGood (s : State) : Prop where
  events : AttnGood s.dev.attnMode s.events
  send : SendGood s.cue.inFlight.isSome s.cue.sendQ
  delivery : s.cue.delivery.length ≤ 16

theorem queues_iff {s : State} (hr : s.resetHeld = false) :
    QueuesOk s ∧ Cue0Ok s ∧ AttnOk s ↔ QueuesGood s := by
  constructor
  · rintro ⟨⟨hrecords, hsend, hdelivery⟩, hcue0, hattn⟩
    obtain ⟨hone, hplace⟩ := hcue0 hr
    obtain ⟨hlevel, hpulse⟩ := hattn hr
    exact ⟨⟨hrecords, hlevel, hpulse⟩, ⟨hsend, hone, hplace⟩, hdelivery⟩
  · rintro ⟨⟨hrecords, hlevel, hpulse⟩, ⟨hsend, hone, hplace⟩, hdelivery⟩
    exact ⟨⟨hrecords, hsend, hdelivery⟩, fun _ => ⟨hone, hplace⟩, fun _ => ⟨hlevel, hpulse⟩⟩

section Steps

variable {s : State}

theorem QueuesGood.congr {t : State} (h : QueuesGood s) (hevents : t.events = s.events) (hcue : t.cue = s.cue)
    (hdev : t.dev.attnMode = s.dev.attnMode) : QueuesGood t := by
  refine ⟨?_, ?_, ?_⟩
  · rw [hevents, hdev]
    exact h.events
  · rw [hcue]
    exact h.send
  · rw [hcue]
    exact h.delivery

theorem QueuesGood.enterEvent (h : QueuesGood s) (k : EventKind) (c : Option Ch) (i : Option Nat)
    (v : Option Word) : QueuesGood (enterEvent k c i v s) :=
  ⟨attnGood_offerEvent h.events _, h.send, h.delivery⟩

theorem QueuesGood.setCue {c : CueController} (h : QueuesGood s) (hsend : SendGood c.inFlight.isSome c.sendQ)
    (hdelivery : c.delivery.length ≤ 16) : QueuesGood (s.setCue c) := ⟨h.events, hsend, hdelivery⟩

theorem QueuesGood.pushCue (h : QueuesGood s) (cue : Nat) (src : CueSource) : QueuesGood (pushCue cue src s) := by
  by_cases hmerge : Merges cue s.cue.sendQ
  · have hverdict := pushVerdict_of_merges hmerge
    simp only [Machine.pushCue, hverdict]
    exact h
  by_cases hlen : s.cue.sendQ.length < 8
  · rw [pushCue_of_room hmerge hlen]
    exact h.setCue (sendGood_placeEntry h.send hlen fun hcue x hx hx0 => hmerge ⟨hcue, x, hx, hx0⟩) h.delivery
  · have hverdict := pushVerdict_of_full hmerge (Nat.not_lt.mp hlen)
    simp only [Machine.pushCue, hverdict]
    exact h

theorem QueuesGood.pushOrDrop (h : QueuesGood s) (cue : Nat) (src : CueSource) :
    QueuesGood (pushOrDrop cue src s) := by
  obtain ⟨-, heq⟩ | ⟨-, heq⟩ := pushOrDrop_cases cue src s
  · rw [heq]
    exact h.enterEvent _ _ _ _
  · rw [heq]
    exact h.pushCue cue src

theorem keptByEmissions_queues : KeptByEmissions QueuesGood where
  setCh := fun _ _ _ h => h.congr rfl rfl rfl
  emit := fun e s h => by
    cases e with
    | record k c i v => exact h.enterEvent k c i v
    | push cue src => exact h.pushOrDrop cue src
  clock := fun _ h => h.congr rfl rfl rfl
  due := fun s x hx h => h.setCue h.send (by
    have hlen := takeDue_length hx
    have hroom := h.delivery
    change x.2.length ≤ 16
    omega)
  setOpen := fun _ _ h => h.congr rfl rfl rfl

/-! ### Rows of the cue line -/

theorem QueuesGood.moveLine (h : QueuesGood s) (ms : List LineMove) : QueuesGood (moveLine ms s) :=
  h.setCue (by rw [lineMoves_isSome, lineMoves_sendQ]; exact h.send) (by rw [lineMoves_delivery]; exact h.delivery)

theorem QueuesGood.loseAttempt (h : QueuesGood s) : QueuesGood (loseAttempt s) := by
  have hsend := h.send
  unfold Machine.loseAttempt
  cases hq : s.cue.sendQ with
  | nil => exact h.setCue (by rw [hq]; exact sendGood_nil _) h.delivery
  | cons x rest =>
    rw [hq] at hsend
    dsimp only
    split
    · exact (h.setCue (c := { s.cue with inFlight := none, sendQ := rest }) hsend.tail h.delivery).enterEvent _ _ _ _
    · exact h.setCue (sendGood_yieldToCue0 hsend rfl) h.delivery

theorem QueuesGood.frameStart (h : QueuesGood s) (ms : List LineMove) : QueuesGood (frameStart ms s) := by
  obtain heq | ⟨-, -, -, heq⟩ := frameStart_cases s ms
  · rw [heq]
    exact h.moveLine ms
  · rw [heq]
    refine h.setCue ?_ ?_
    · have hsome : (beginFrame s.dev.half (lineMoves ms s.cue)).inFlight.isSome = true :=
        (follow_isSome _ _).trans (enterPhase_isSome _ _)
      rw [hsome, beginFrame_sendQ, lineMoves_sendQ]
      exact h.send.sending
    · rw [beginFrame_delivery, lineMoves_delivery]
      exact h.delivery

theorem QueuesGood.frameSent (h : QueuesGood s) (ms : List LineMove) : QueuesGood (frameSent ms s) := by
  obtain heq | ⟨-, heq⟩ := frameSent_cases s ms
  · rw [heq]
    exact h.moveLine ms
  · rw [heq]
    refine h.setCue ?_ (by rw [lineMoves_delivery]; exact h.delivery)
    have hsend := h.send
    cases hq : s.cue.sendQ with
    | nil => exact sendGood_nil _
    | cons x rest =>
      rw [hq] at hsend
      exact hsend.tail

theorem QueuesGood.arbitrationLost (h : QueuesGood s) (ms : List LineMove) : QueuesGood (arbitrationLost ms s) := by
  obtain heq | ⟨-, heq⟩ := arbitrationLost_cases s ms
  · rw [heq]
    exact h.moveLine ms
  · rw [heq]
    exact (h.moveLine ms).loseAttempt

theorem QueuesGood.receiver (h : QueuesGood s) (ms : List LineMove) (r : Receiver) :
    QueuesGood (s.setCue { lineMoves ms s.cue with receiver := r }) := (h.moveLine ms).setCue
  (h.moveLine ms).send (h.moveLine ms).delivery

theorem QueuesGood.deliver (h : QueuesGood s) (cue : Nat) (e : Counter) : QueuesGood (deliver cue e s) := by
  unfold Machine.deliver
  split
  · exact h.enterEvent _ _ _ _
  · next hroom =>
    have hroom' : s.cue.delivery.length < 16 := Nat.not_le.mp hroom
    exact h.setCue h.send (by rw [List.length_append, List.length_singleton]; omega)

theorem QueuesGood.frameReceived (h : QueuesGood s) (ms : List LineMove) (onB : Bool) :
    QueuesGood (frameReceived ms onB s) := by
  obtain heq | ⟨bits, -, ⟨cue, -, heq⟩ | ⟨why, -, heq⟩⟩ := frameReceived_cases s ms onB
  · rw [heq]
    exact h.moveLine ms
  · rw [heq]
    exact (h.receiver ms .outside).deliver cue _
  · rw [heq]
    exact (h.receiver ms .outside).enterEvent _ _ _ _

theorem QueuesGood.startCondition (h : QueuesGood s) (ms : List LineMove) : QueuesGood (startCondition ms s) := by
  obtain heq | ⟨-, heq⟩ := startCondition_cases s ms
  · rw [heq]
    exact h.moveLine _
  · rw [heq]
    have hmoves := h.receiver (ms ++ [.pull .cuedt]) (.inside [] true)
    rw [lineMoves_append] at hmoves
    exact hmoves.enterEvent _ _ _ _

theorem QueuesGood.stalledFrame (h : QueuesGood s) (ms : List LineMove) : QueuesGood (stalledFrame ms s) := by
  obtain heq | ⟨-, heq⟩ := stalledFrame_cases s ms
  · rw [heq]
    exact h.moveLine _
  · rw [heq]
    exact (h.receiver ms .outside).enterEvent _ _ _ _

theorem QueuesGood.stuckLine (h : QueuesGood s) (l : CueLine) (ms : List LineMove) :
    QueuesGood (stuckLine l ms s) := by
  have hmoves := h.moveLine ms
  have hstuck : QueuesGood (cueError .stuck
      (s.setCue (setStuck { lineMoves ms s.cue with receiver := .outside } l true))) := by
    refine QueuesGood.enterEvent (hmoves.setCue ?_ ?_) _ _ _ _
    · cases l <;> exact hmoves.send
    · cases l <;> exact hmoves.delivery
  obtain heq | ⟨-, ⟨-, heq⟩ | ⟨-, heq⟩⟩ := stuckLine_cases s l ms
  · rw [heq]
    exact hmoves
  · rw [heq]
    exact hstuck
  · rw [heq]
    exact QueuesGood.loseAttempt (hstuck.setCue hstuck.send hstuck.delivery)

theorem QueuesGood.setTrig (h : QueuesGood s) (t : TrigPin) (g : Trigger) :
    QueuesGood (s.setCue (setTrig s.cue t g)) :=
  h.setCue (by cases t <;> exact h.send) (by cases t <;> exact h.delivery)

theorem QueuesGood.trigEdgeQualified (h : QueuesGood s) (t : TrigPin) : QueuesGood (trigEdgeQualified t s) := by
  simp only [Machine.trigEdgeQualified]
  split
  · exact h
  · split
    · exact (h.setTrig t _).pushOrDrop _ _
    · exact h.setTrig t _

/-! ### Messages -/

theorem QueuesGood.of_touches {t : State} {b : Blocks} (h : QueuesGood s) (ht : Touches b s t)
    (hevents : b.events = false) (hcue : b.cue = false) (hdev : b.dev = false) : QueuesGood t :=
  h.congr (ht.events.resolve_left (by simp [hevents])) (ht.cue.resolve_left (by simp [hcue]))
    (congrArg _ (ht.dev.resolve_left (by simp [hdev])))

theorem QueuesGood.reportLate (h : QueuesGood s) (c : StartCond) : QueuesGood (reportLate c s) := by
  cases c with
  | time t =>
    simp only [Machine.reportLate]
    split
    · exact h.enterEvent _ _ _ _
    · exact h
  | none => exact h
  | cue => exact h

theorem QueuesGood.message {t : State} {k : Kind} (h : QueuesGood s) (he : MessageEffect s k t)
    (hr : s.resetHeld = false) (ho : s.boundaryOpen = false) (hk : k ≠ .devReset) : QueuesGood t := by
  have ht := he.touches hr ho
  cases he with
  | configured divider hp mode align =>
    exact ⟨attnGood_switchAttn h.events, h.send, h.delivery⟩
  | restarted => exact absurd rfl hk
  | defaulted => exact absurd rfl hk
  | eventsRead most => exact ⟨attnGood_readEvents h.events most, h.send, h.delivery⟩
  | started c hns =>
    refine QueuesGood.reportLate ?_ c
    rw [eachCh_setCh hns (fun d => d.arm c (startBoundary c s.dev.counter))]
    exact h.congr rfl rfl rfl
  | streamed => exact h.congr rfl rfl rfl
  | streamedHigh => exact QueuesGood.enterEvent (s := streamTaken _ _ s) (h.congr rfl rfl rfl) _ _ _ _
  | cueSent => exact h.pushCue _ _
  | trigSet t g => exact h.setTrig t g
  | same => exact h
  | _ => exact h.of_touches ht rfl rfl rfl

theorem QueuesGood.fault {t : State} {n : Ch} (h : QueuesGood s) (ht : FaultOutcome n s t) : QueuesGood t := by
  cases ht with
  | same => exact h
  | timed => exact h.congr rfl rfl rfl
  | failed p => exact QueuesGood.enterEvent (s := s.setPr n p) (h.congr rfl rfl rfl) _ _ _ _
  | shut p =>
    exact QueuesGood.enterEvent (s := (s.setPr n p).setCh n (s.ch n).toIdle) (h.congr rfl rfl rfl) _ _ _ _

theorem QueuesGood.temp {t : State} (h : QueuesGood s) (ht : TempOutcome s t) : QueuesGood t := by
  cases ht with
  | same => exact h
  | moved t => exact h.congr rfl rfl rfl
  | told t => exact QueuesGood.enterEvent (s := s.setTemp t) (h.congr rfl rfl rfl) _ _ _ _
  | locked => exact QueuesGood.enterEvent (s := lockAll s) (h.congr rfl rfl rfl) _ _ _ _

theorem QueuesGood.reading (h : QueuesGood s) (r : Int) : QueuesGood (evaluateTemp r s) :=
  evaluateTemp_keeps (fun _ _ h => h.congr rfl rfl rfl) (fun _ _ ht h => h.temp ht) r h

theorem QueuesGood.clear {t : State} (h : QueuesGood s) (ht : ClearOutcome s t) : QueuesGood t := by
  cases ht with
  | same => exact h
  | done =>
    exact QueuesGood.enterEvent (s := s.setMem (memCleared _ _ _ s.mem)) (h.congr rfl rfl rfl) _ _ _ _

theorem QueuesGood.row {c : Instr} (h : QueuesGood s) (hc : carriesMessage c = false) :
    QueuesGood (actionOf c s) := by
  cases c
  case segClearDone => exact h.clear (clearOutcome s)
  case frameStart ms => exact h.frameStart ms
  case frameSent ms => exact h.frameSent ms
  case arbitrationLost ms => exact h.arbitrationLost ms
  case frameReceived ms onB => exact h.frameReceived ms onB
  case startCondition ms => exact h.startCondition ms
  case stalledFrame ms => exact h.stalledFrame ms
  case stuckLine l ms => exact h.stuckLine l ms
  case stuckLineReleased l ms => exact h.moveLine _
  case trigPinChange t level => exact h.setTrig t _
  case trigEdgeQualified t => exact h.trigEdgeQualified t
  case faultAssert n => exact h.fault (faultOutcome_assert n s)
  case faultRelease n => exact h.congr rfl rfl rfl
  case faultQualified n => exact h.fault (faultOutcome_qualified n s)
  case escalationExpiry n => exact h.fault (faultOutcome_expiry n s)
  case tempReading r => exact h.reading r
  case attnPulseEnd =>
    change QueuesGood (attnPulseEnd s)
    unfold attnPulseEnd
    split
    · next hp => exact ⟨attnGood_attnPulseEnd h.events hp, h.send, h.delivery⟩
    · exact h
  all_goals cases hc

theorem queuesGood_default {p : Pins} {keeps : Bool} {u : State} (hu : AtDefaults p keeps u) : QueuesGood u := by
  refine ⟨?_, ?_, ?_⟩
  · rw [hu.events]
    exact attnGood_empty _
  · rw [hu.cue]
    exact sendGood_nil _
  · rw [hu.cue]
    exact Nat.zero_le _

end Steps

end Sys2Proof.Machine

namespace Sys2Proof.Proofs

open Sys2Proof.Machine

/-- Settles O58: what each row does to the queues; while RESET# is held low only their sizes count. -/
theorem queuesAndAttentionKept : Obligations.QueuesAndAttentionKept := by
  have hrunning : ∀ s t : State, s.resetHeld = false → t.resetHeld = false →
      (QueuesGood s → QueuesGood t) → QueuesOk s ∧ Cue0Ok s ∧ AttnOk s → QueuesOk t ∧ Cue0Ok t ∧ AttnOk t :=
    fun s t hr hr' h hs => (queues_iff hr').mpr (h ((queues_iff hr).mp hs))
  refine keptByStep_of_parts ⟨fun _ _ h => h, fun _ _ h => h, fun s t hr ht => ?moment,
    fun k s t hr ho _ hk he => ?message, fun s hr _ => ?restart, fun c s hc hr _ => ?row,
    fun s hr _ hs => ?assert, fun reading s hr _ => ?default, fun p s _ => ?fresh⟩
  case moment =>
    obtain ⟨-, -, -, -, hheld, -⟩ := ht.sameOutside
    exact hrunning s t hr (hheld.trans hr) fun h => keptByEmissions_queues.moment ht h
  case message =>
    exact hrunning s t hr ((he.touches hr ho).held.trans hr) fun h => h.message he hr ho hk
  case restart =>
    exact hrunning s _ hr hr fun h => ⟨h.events, sendGood_nil _, Nat.zero_le _⟩
  case row => exact hrunning s _ hr ((touches_actionOf hc s).held.trans hr) fun h => h.row hc
  case assert =>
    obtain ⟨⟨hrecords, hsend, hdelivery⟩, -, -⟩ := hs
    exact ⟨⟨hrecords, hsend, hdelivery⟩, fun h => (nomatch h), fun h => nomatch h⟩
  case default =>
    have hu := atDefaults_freshForAll reading s
    obtain ⟨-, -, -, -, -, hr', -⟩ := hu.kept reading
    exact (queues_iff hr').mpr ∘ fun _ => (queuesGood_default hu).reading reading
  case fresh =>
    have hu := atDefaults_defaults p s
    obtain ⟨-, -, -, -, -, hr', -⟩ := hu.kept p.reading
    exact (queues_iff hr').mpr ((queuesGood_default hu).reading p.reading)

end Sys2Proof.Proofs
end

section
/-! PROOF. Every step keeps level and debt in range and never both above 0, pending sets inside the masks, and codes in
the windows (R63, R76, R85, R94, R132, R134). -/

namespace Sys2Proof.Machine

/-! ### A property of channels that every step keeps -/

/-- Nothing that can happen to a channel takes `Q` from it. -/
structure KeptByChannels (Q : Channel → Prop) : Prop where
  stages : ∀ n m, KeptByStages n m fun _ c => Q c
  message : ∀ s n c, ChannelMessage s n c → Q (s.ch n) → Q c
  restart : ∀ c, Q c → Q c.restart
  idle : ∀ c, Q c → Q c.toIdle
  pins : ∀ c, Q c → Q (holdPins c)
  fresh : ∀ mksel out, Q { defaultChannel mksel with out := out }

theorem temp_chans {s t : State} (h : TempOutcome s t) : t.chans = s.chans := by
  cases h <;> rfl

theorem evaluateTemp_ch (r : Int) (s : State) (n : Ch) : (evaluateTemp r s).ch n = s.ch n :=
  evaluateTemp_keeps (P := fun t => t.ch n = s.ch n) (fun _ _ h => h)
    (fun _ _ ht h => by rw [State.ch, temp_chans ht]; exact h) r rfl

/-- Only a shutdown among the rows without a message touches a channel. -/
theorem row_ch {c : Instr} (hc : carriesMessage c = false) (s : State) (n : Ch) :
    (actionOf c s).ch n = s.ch n ∨ (actionOf c s).ch n = (s.ch n).toIdle := by
  have hfault : ∀ (k : Ch) (t : State), FaultOutcome k s t → t.ch n = s.ch n ∨ t.ch n = (s.ch n).toIdle := by
    intro k t ht
    cases ht with
    | same => exact .inl rfl
    | timed => exact .inl rfl
    | failed => exact .inl rfl
    | shut =>
      rw [enterEvent_ch, ch_setCh]
      split
      · next hn => exact .inr (by rw [hn])
      · exact .inl rfl
  have hkept : (rowBlocks c).chans = false → (actionOf c s).ch n = s.ch n := fun hb =>
    congrArg (fun q : Quad Channel => q.get n) ((touches_actionOf hc s).chans.resolve_left (by simp [hb]))
  cases c
  case faultQualified k => exact hfault k _ (faultOutcome_qualified k s)
  case escalationExpiry k => exact hfault k _ (faultOutcome_expiry k s)
  all_goals exact .inl (hkept rfl)

theorem keptByParts_of_channels {Q : Channel → Prop} (h : KeptByChannels Q) :
    KeptByParts fun s => ∀ n, Q (s.ch n) := by
  have hdefault : ∀ {p keeps u r}, AtDefaults p keeps u → ∀ n, Q ((evaluateTemp r u).ch n) := fun hu n => by
    obtain ⟨out, hch⟩ := hu.chans n
    rw [evaluateTemp_ch, hch]
    exact h.fresh _ out
  refine ⟨fun _ _ h => h, fun _ _ h => h,
    fun s t _ ht hs n => (h.stages n s.mem).moment rfl ht (hs n),
    fun k s t _ _ _ hk he hs n => h.message s n _ (he.channel hk n) (hs n),
    fun s _ _ hs n => ?restart, fun c s hc _ _ hs n => ?row, fun s _ _ hs n => ?assert,
    fun reading s _ _ _ => hdefault (atDefaults_freshForAll reading s),
    fun p s _ => hdefault (atDefaults_defaults p s)⟩
  case restart =>
    have hch : (devResetPlayback s).state.ch n = (s.ch n).restart := get_mapCh Channel.restart s.chans n
    rw [hch]
    exact h.restart _ (hs n)
  case row =>
    obtain heq | heq := row_ch hc s n
    · rw [heq]
      exact hs n
    · rw [heq]
      exact h.idle _ (hs n)
  case assert =>
    have hch : (pinResetAssert s).ch n = holdPins (s.ch n) := get_mapCh holdPins s.chans n
    rw [hch]
    exact h.pins _ (hs n)

theorem keptByStep_of_channels {Q : Channel → Prop} (h : KeptByChannels Q) :
    KeptByStep fun s => ∀ n, Q (s.ch n) := keptByStep_of_parts (keptByParts_of_channels h)

theorem keptByStep_and {P R : State → Prop} (hP : KeptByStep P) (hR : KeptByStep R) :
    KeptByStep fun s => P s ∧ R s := fun s t h hst => ⟨hP s t h.1 hst, hR s t h.2 hst⟩

/-! ### The buffer and the pending set through a boundary -/

theorem SettleOutcome.buffers {n : Ch} {s : State} {c : Channel} {es : List Emission}
    (h : SettleOutcome n s c es) : c.stream = (s.ch n).stream ∧ c.pendingCues = (s.ch n).pendingCues := by
  have hend : ∀ (t : Slot) (d : Channel),
      (afterStepEnd t d).stream = d.stream ∧ (afterStepEnd t d).pendingCues = d.pendingCues := by
    intro t d
    unfold afterStepEnd
    dsimp only
    split <;> exact ⟨rfl, rfl⟩
  cases h with
  | kept => exact ⟨rfl, rfl⟩
  | playsOn => exact ⟨rfl, rfl⟩
  | repeatEnd t => exact hend t (repeatCounted t.record (s.ch n))
  | streamEnd t => exact hend t _

theorem EndOutcome.buffers {deferred : List Ch} {n : Ch} {why : Owed} {s : State} {c : Channel}
    {es : List Emission} (h : EndOutcome deferred n why s c es) :
    c.stream = (s.ch n).stream ∧ c.pendingCues = (s.ch n).pendingCues := by
  cases h with
  | owed => exact ⟨rfl, rfl⟩
  | resolved _ _ _ hsettle =>
    have hbuffers := hsettle.buffers
    rw [ch_setCh_same] at hbuffers
    exact hbuffers

/-- What the code stage makes of the buffer: nothing; the head consumed; the shortfall added to the debt. -/
inductive BufferOutcome (b : StreamBuffer) : StreamBuffer → Prop
  | same : BufferOutcome b b
  | consumed {x : Sample} {rest : List Sample} (h : b.fifo = x :: rest) : BufferOutcome b ⟨rest, b.debt⟩
  | starved (k : Nat) (h : b.fifo = []) : BufferOutcome b ⟨[], min (b.debt + k) Config.maxDebt⟩

theorem CodeOutcome.buffers {deferred : List Ch} {n : Ch} {s : State} {c : Channel} {es : List Emission}
    (h : CodeOutcome deferred n s c es) :
    BufferOutcome (s.ch n).stream c.stream ∧ c.pendingCues = (s.ch n).pendingCues := by
  cases h with
  | unplayed => exact ⟨.same, rfl⟩
  | memoryOn => exact ⟨.same, rfl⟩
  | memoryEnd _ _ _ _ _ _ _ _ _ hend =>
    obtain ⟨hstream, hpending⟩ := hend.buffers
    rw [ch_setCh_same] at hstream hpending
    rw [hstream, hpending]
    exact ⟨.same, rfl⟩
  | streamOn t x rest _ _ hf => exact ⟨.consumed hf, rfl⟩
  | streamEnd t x rest _ _ _ _ hf _ hend =>
    obtain ⟨hstream, hpending⟩ := hend.buffers
    rw [ch_setCh_same] at hstream hpending
    rw [hstream, hpending]
    exact ⟨.consumed hf, rfl⟩
  | underrun t d _ _ _ hf hend =>
    obtain ⟨hstream, hpending⟩ := hend.buffers
    rw [ch_setCh_same] at hstream hpending
    refine ⟨?_, hpending⟩
    rw [withDebt, hstream]
    have hfifo : (presentOn (s.ch n).hold {} (s.ch n)).stream.fifo = [] := hf
    simp only [hfifo]
    exact .starved _ hf

/-! ### Stream buffers (R85, R88, R94) -/

/-- Level and debt in range, one of them 0. -/
def BufferGood (b : StreamBuffer) : Prop :=
  b.fifo.length ≤ Config.streamCapacity ∧ b.debt ≤ Config.maxDebt ∧ (b.fifo.length = 0 ∨ b.debt = 0)

theorem bufferGood_empty : BufferGood {} := ⟨Nat.zero_le _, Nat.zero_le _, .inl rfl⟩

theorem BufferOutcome.good {b d : StreamBuffer} (h : BufferOutcome b d) (hb : BufferGood b) : BufferGood d := by
  obtain ⟨hlevel, hdebt, hone⟩ := hb
  cases h with
  | same => exact ⟨hlevel, hdebt, hone⟩
  | consumed hf =>
    rw [hf, List.length_cons] at hlevel hone
    refine ⟨Nat.le_of_succ_le hlevel, hdebt, .inr ?_⟩
    exact hone.resolve_left (Nat.succ_ne_zero _)
  | starved k hf => exact ⟨Nat.zero_le _, Nat.min_le_right _ _, .inl rfl⟩

theorem bufferGood_streamTake {b : StreamBuffer} (hb : BufferGood b) {xs : List Sample}
    (hroom : (streamTake xs b).fifo.length ≤ Config.streamCapacity) : BufferGood (streamTake xs b) := by
  obtain ⟨-, hdebt, hone⟩ := hb
  have hleft : (streamTake xs b).debt = b.debt - min xs.length b.debt := rfl
  refine ⟨hroom, ?_, ?_⟩
  · rw [hleft]
    exact le_trans (Nat.sub_le _ _) hdebt
  · rw [streamTake_level, hleft]
    omega

theorem keptByChannels_stream : KeptByChannels fun c => BufferGood c.stream where
  stages n m :=
    { settle := fun _ _ _ _ _ hout h => by rwa [hout.buffers.1]
      entry := by
        intro now c c' es hout h
        generalize entryOf now c = o at hout
        cases hout with
        | kept => exact h
        | entered => exact h
      opens := fun _ h => h
      cue := fun _ _ _ _ hout h => by
        cases hout with
        | ignored => exact h
        | _ => exact h
      priming := by
        intro c h
        rw [primedChannel]
        split <;> exact h
      markers := fun _ h => h
      codes := fun _ _ _ _ _ hout h => hout.buffers.1.good h }
  message := by
    intro s n c hc h
    cases hc with
    | stopped flush =>
      cases flush with
      | true => exact bufferGood_empty
      | false => exact h
    | streamed hroom => exact bufferGood_streamTake h hroom
    | flushed => exact bufferGood_empty
    | _ => exact h
  restart := fun _ _ => bufferGood_empty
  idle := fun _ h => h
  pins := fun _ h => h
  fresh := fun _ _ => bufferGood_empty

/-! ### Pending sets (R132, R134) -/

/-- The pending set inside the mask, cue 0 in neither. -/
def PendingGood (c : Channel) : Prop := c.pendingCues &&& ~~~c.mask = 0 ∧ cueIn c.mask 0 = false

theorem pending_iff (p m : CueSet) : p &&& ~~~m = 0 ↔ ∀ q, cueIn p q = true → cueIn m q = true := by
  constructor
  · intro h q hp
    have hbit := congrArg (fun c : CueSet => cueIn c q) h
    by_cases hq : q < 64
    · simpa [cueIn, hq, show p.getLsbD q = true from hp] using hbit
    · rw [cueIn, BitVec.getLsbD_of_ge p q (by omega)] at hp
      cases hp
  · intro h
    refine BitVec.eq_of_getLsbD_eq fun q hq => ?_
    cases hp : p.getLsbD q with
    | false => simp [hp]
    | true =>
      have hm : m.getLsbD q = true := h q hp
      simp [hm]

theorem PendingGood.of_subset {c d : Channel} (h : PendingGood c) (hmask : d.mask = c.mask)
    (hsub : ∀ q, cueIn d.pendingCues q = true → cueIn c.pendingCues q = true) : PendingGood d := by
  obtain ⟨hin, hzero⟩ := h
  refine ⟨(pending_iff _ _).mpr fun q hq => ?_, by rw [hmask]; exact hzero⟩
  rw [hmask]
  exact (pending_iff _ _).mp hin q (hsub q hq)

theorem PendingGood.of_same {c d : Channel} (h : PendingGood c) (hmask : d.mask = c.mask)
    (hpending : d.pendingCues = c.pendingCues) : PendingGood d := h.of_subset hmask fun q hq => by rwa [← hpending]

theorem pendingGood_zero {c : Channel} (hzero : cueIn c.mask 0 = false) (h : c.pendingCues = 0) :
    PendingGood c := ⟨by rw [h]; exact BitVec.zero_and, hzero⟩

theorem cueIn_of_cueAdd {p : CueSet} {n q : Nat} (h : cueIn (cueAdd p n) q = true) : cueIn p q = true ∨ q = n := by
  simp only [cueIn, cueAdd, BitVec.getLsbD_or, BitVec.getLsbD_shiftLeft, BitVec.getLsbD_one, Bool.or_eq_true] at h
  refine h.imp_right fun hbit => ?_
  simp at hbit
  omega

theorem pendingGood_enterChannel {c : Channel} (h : PendingGood c) (idx : Nat) (r : StepRecord) :
    PendingGood (enterChannel idx r c) := h.of_subset rfl fun q hq => by
  rw [enterChannel_eq] at hq
  simp only [cueIn_entryPending, Bool.and_eq_true] at hq
  exact hq.1.1

theorem CueTaken.pendingGood {cue : Nat} {n : Ch} {c d : Channel} {es : List Emission}
    (h : CueTaken cue n c d es) (hc : PendingGood c) : PendingGood d := by
  cases h with
  | ignored => exact hc
  | cleared => exact pendingGood_zero hc.2 rfl
  | stopped => exact pendingGood_zero hc.2 rfl
  | started t => exact pendingGood_enterChannel hc _ _
  | waitEnded => exact hc.of_same rfl rfl
  | leaves => exact hc.of_same rfl rfl
  | kept _ hmask =>
    obtain ⟨hin, hzero⟩ := hc
    refine ⟨(pending_iff _ _).mpr fun q hq => ?_, hzero⟩
    obtain hq | rfl := cueIn_of_cueAdd hq
    · exact (pending_iff _ _).mp hin q hq
    · exact hmask

theorem keptByChannels_pending : KeptByChannels PendingGood where
  stages n m :=
    { settle := fun _ _ _ _ _ hout h => h.of_same hout.closed.mask hout.buffers.2
      entry := by
        intro now c c' es hout h
        generalize entryOf now c = o at hout
        cases hout with
        | kept => exact h
        | entered => exact pendingGood_enterChannel h _ _
      opens := fun _ h => h
      cue := fun _ _ _ _ hout h => hout.pendingGood h
      priming := by
        intro c h
        rw [primedChannel]
        split
        · exact h.of_same rfl rfl
        · exact h
      markers := fun _ h => h.of_same rfl rfl
      codes := fun _ _ _ _ _ hout h => by
        obtain ⟨-, hmask, -⟩ := hout.presentsOnce
        exact h.of_same hmask hout.buffers.2 }
  message := by
    intro s n c hc h
    cases hc with
    | kept => exact h
    | masked hi lo =>
      refine ⟨(pending_iff _ _).mpr fun q hq => ?_, by rw [cueIn_cueSetOf]; rfl⟩
      rw [cueIn_and, Bool.and_eq_true] at hq
      exact hq.2
    | cleared => exact pendingGood_zero h.2 rfl
    | started => exact pendingGood_zero h.2 rfl
    | stopped flush => cases flush <;> exact pendingGood_zero h.2 rfl
    | _ => exact h.of_same rfl rfl
  restart := fun _ h => pendingGood_zero h.2 rfl
  idle := fun _ h => pendingGood_zero h.2 rfl
  pins := fun _ h => h.of_same rfl rfl
  fresh := fun _ _ => pendingGood_zero (show cueIn (0 : CueSet) 0 = false by decide) rfl

/-! ### Windows (R63, R75, R76) -/

theorem InWindow.of_hold {c d : Channel} (h : InWindow c) (hsettings : d.settings = c.settings)
    (hhold : c.settings.lmin ≤ d.hold ∧ d.hold ≤ c.settings.lmax) : InWindow d := by
  obtain ⟨h1, h2, h3, h4, -, -⟩ := h
  rw [InWindow, hsettings]
  exact ⟨h1, h2, h3, h4, hhold⟩

theorem InWindow.of_same {c d : Channel} (h : InWindow c) (hsettings : d.settings = c.settings)
    (hhold : d.hold = c.hold) : InWindow d := by
  obtain ⟨-, -, -, -, h5, h6⟩ := id h
  exact h.of_hold hsettings (by rw [hhold]; exact ⟨h5, h6⟩)

theorem InWindow.of_park {c d : Channel} (h : InWindow c) (hsettings : d.settings = c.settings)
    (hhold : d.hold = d.settings.park) : InWindow d := by
  obtain ⟨-, h2, h3, -, -, -⟩ := id h
  exact h.of_hold hsettings (by rw [hhold, hsettings]; exact ⟨h2, h3⟩)

theorem InWindow.of_closed {c d : Channel} (h : InWindow c) (hd : Closed c d) : InWindow d := by
  obtain hhold | ⟨-, -, hhold⟩ := hd.hold
  · exact h.of_same hd.settings hhold
  · exact h.of_park hd.settings hhold

theorem inWindow_presentOn {c : Channel} (h : InWindow c) {d : Channel} (hsettings : d.settings = c.settings)
    {x : Int} (hx : d.hold = clamp x c.settings.lmin c.settings.lmax) : InWindow d := by
  obtain ⟨-, h2, h3, -, -, -⟩ := id h
  exact h.of_hold hsettings (by rw [hx]; exact clamp_bounds (le_trans h2 h3) x)

theorem CodeOutcome.inWindow {deferred : List Ch} {n : Ch} {s : State} {c : Channel} {es : List Emission}
    (h : CodeOutcome deferred n s c es) (hc : InWindow (s.ch n)) : InWindow c := by
  cases h with
  | unplayed =>
    have hcode : unplayedCode (s.ch n) = (s.ch n).settings.park ∨ unplayedCode (s.ch n) = (s.ch n).hold := by
      unfold unplayedCode
      split
      · exact .inl rfl
      · split
        · exact .inl rfl
        · exact .inr rfl
      · exact .inr rfl
    obtain hpark | hhold := hcode
    · exact hc.of_park rfl hpark
    · exact hc.of_same rfl hhold
  | memoryOn => exact inWindow_presentOn hc rfl rfl
  | memoryEnd t _ g _ _ _ _ _ _ hend =>
    have hclosed := hend.closed
    rw [ch_setCh_same] at hclosed
    exact (inWindow_presentOn (d := memoryPlayed n s t.record g) hc rfl rfl).of_closed hclosed
  | streamOn => exact inWindow_presentOn hc rfl rfl
  | streamEnd t x rest _ _ _ _ _ _ hend =>
    have hclosed := hend.closed
    rw [ch_setCh_same] at hclosed
    exact (inWindow_presentOn (d := streamPlayed n s t.record x rest) hc rfl rfl).of_closed hclosed
  | underrun t d _ _ _ _ hend =>
    have hclosed := hend.closed
    rw [ch_setCh_same] at hclosed
    exact (InWindow.of_closed (c := presentOn (s.ch n).hold {} (s.ch n)) (hc.of_same rfl rfl) hclosed).of_same
      rfl rfl

theorem signedOf_bounds (w : Word) (lo : Nat) :
    -32768 ≤ signedOf w (lo + 15) lo ∧ signedOf w (lo + 15) lo ≤ 32767 := by
  have hwidth : lo + 15 + 1 - lo = 16 := by omega
  have hlo := BitVec.le_toInt (w.extractLsb' lo (lo + 15 + 1 - lo))
  have hhi := BitVec.toInt_lt (x := w.extractLsb' lo (lo + 15 + 1 - lo))
  rw [signedOf]
  have hpow : (2 : Int) ^ (lo + 15 + 1 - lo - 1) = 32768 := by
    rw [hwidth]
    rfl
  rw [hpow] at hlo hhi
  omega

/-- Settings a message can spell (R63). -/
theorem settings_good {m : Msg} {t : Settings} (h : settingsOf m = some t) :
    -32768 ≤ t.lmin ∧ t.lmin ≤ t.park ∧ t.park ≤ t.lmax ∧ t.lmax ≤ 32767 ∧ 1 ≤ t.prime := by
  by_cases hgood : settingsGood m
  · rw [settingsOf_good hgood] at h
    cases h
    obtain ⟨-, h2, h3, -, -, -, -, -, h8, -⟩ := hgood
    exact ⟨(signedOf_bounds (msgWord m 0) 16).1, h2, h3, (signedOf_bounds (msgWord m 0) 0).2, h8⟩
  · rw [settingsOf_bad hgood] at h
    cases h

theorem inWindow_configured {m : Msg} {t : Settings} (h : settingsOf m = some t) (c : Channel) :
    InWindow { c with settings := t, hold := configuredHold c t } := by
  obtain ⟨h1, h2, h3, h4, -⟩ := settings_good h
  have hhold : t.lmin ≤ configuredHold c t ∧ configuredHold c t ≤ t.lmax := by
    unfold configuredHold
    split
    · exact clamp_bounds (le_trans h2 h3) _
    · exact ⟨h2, h3⟩
  exact ⟨h1, h2, h3, h4, hhold⟩

theorem keptByChannels_window : KeptByChannels InWindow where
  stages n m :=
    { settle := fun _ _ _ _ _ hout h => h.of_closed hout.closed
      entry := by
        intro now c c' es hout h
        generalize entryOf now c = o at hout
        cases hout with
        | kept => exact h
        | entered => exact h.of_same rfl rfl
      opens := fun _ h => h
      cue := fun _ _ _ _ hout h => by
        cases hout with
        | stopped => exact h.of_park rfl rfl
        | _ => exact h.of_same rfl rfl
      priming := by
        intro c h
        rw [primedChannel]
        split
        · exact h.of_same rfl rfl
        · exact h
      markers := fun _ h => h.of_same rfl rfl
      codes := fun _ _ _ _ _ hout h => hout.inWindow h }
  message := by
    intro s n c hc h
    cases hc with
    | configured ht => exact inWindow_configured ht _
    | stopped flush => cases flush <;> exact h.of_park rfl rfl
    | _ => exact h.of_same rfl rfl
  restart := fun _ h => h.of_park rfl rfl
  idle := fun _ h => h.of_park rfl rfl
  pins := fun _ h => h.of_same rfl rfl
  fresh := fun _ _ => (show (-32768 : Int) ≤ -32768 ∧ (-32768 : Int) ≤ 0 ∧ (0 : Int) ≤ 32767 ∧
    (32767 : Int) ≤ 32767 ∧ (-32768 : Int) ≤ 0 ∧ (0 : Int) ≤ 32767 by decide)

end Sys2Proof.Machine

namespace Sys2Proof.Proofs

open Sys2Proof.Machine

/-- Settles O56: each part is a property of single channels that nothing takes from one. -/
theorem streamsPendingSetsAndWindowsKept : Obligations.StreamsPendingSetsAndWindowsKept :=
  ⟨keptByStep_and (keptByStep_of_channels keptByChannels_stream) (keptByStep_of_channels keptByChannels_pending),
    keptByStep_of_channels keptByChannels_window⟩

end Sys2Proof.Proofs
end

section
/-! PROOF. Every step keeps the step lists in range and the reference counts equal to the steps naming each segment
(R13, R20, R21, R26). -/

namespace Sys2Proof.Machine

/-! ### Step lists in range (R20, R21, R26) -/

/-- A slot in range. -/
def SlotGood (t : Slot) : Prop := t.record.inRange = true ∧ t.loops ≤ 65535

theorem jump_count_le {r : StepRecord} {j : Jump} (hr : r.inRange = true) (hj : r.jump = some j) :
    j.count ≤ 65535 := by
  simp only [StepRecord.inRange, hj, jumpOk, Bool.and_eq_true, decide_eq_true_eq] at hr
  exact hr.2.2

theorem slotGood_newSlot {r : StepRecord} (hr : r.inRange = true) : SlotGood (newSlot r) := by
  refine ⟨hr, ?_⟩
  unfold newSlot
  cases hj : r.jump with
  | none => exact Nat.zero_le _
  | some j => exact jump_count_le hr hj

theorem slotGood_loopsAfter {t : Slot} (h : SlotGood t) : SlotGood { t with loops := loopsAfter t } := by
  refine ⟨h.1, ?_⟩
  have hloops := h.2
  change loopsAfter t ≤ 65535
  unfold loopsAfter
  cases hj : t.record.jump with
  | none => exact hloops
  | some j =>
    have hcount := jump_count_le h.1 hj
    dsimp only
    split
    · exact hloops
    · split <;> omega

theorem slotGood_reloaded {t : Slot} (h : SlotGood t) :
    ∀ u ∈ reloadLoops [t], SlotGood u := by
  intro u hu
  rw [reloadLoops, List.map_singleton, List.mem_singleton] at hu
  subst hu
  refine ⟨h.1, ?_⟩
  cases hj : t.record.jump with
  | none => exact Nat.zero_le _
  | some j => exact jump_count_le h.1 hj

theorem ListOk.of_list {c d : Channel} (h : ListOk c) (hlist : d.list = c.list) : ListOk d := by
  rwa [ListOk, hlist]

theorem listOk_nil {c : Channel} (h : c.list = []) : ListOk c := by
  rw [ListOk, h]
  exact ⟨Nat.zero_le _, fun _ ht => absurd ht List.not_mem_nil⟩

theorem ListOk.set {c d : Channel} (h : ListOk c) {i : Nat} {t : Slot} (ht : SlotGood t)
    (hlist : d.list = c.list.set i t) : ListOk d := by
  rw [ListOk, hlist, List.length_set]
  refine ⟨h.1, fun u hu => ?_⟩
  obtain hu | rfl := List.mem_or_eq_of_mem_set hu
  · exact h.2 u hu
  · exact ht

theorem listOk_afterStepEnd {c : Channel} (h : ListOk c) {t : Slot} (ht : c.list[c.run.step]? = some t) :
    ListOk (afterStepEnd t c) := by
  have hslot := slotGood_loopsAfter (h.2 t (List.mem_of_getElem? ht))
  unfold afterStepEnd
  dsimp only
  split <;> exact h.set hslot rfl

theorem SettleOutcome.listOk {n : Ch} {s : State} {c : Channel} {es : List Emission}
    (h : SettleOutcome n s c es) (hs : ListOk (s.ch n)) : ListOk c := by
  cases h with
  | kept => exact hs
  | playsOn => exact hs.of_list rfl
  | repeatEnd t _ _ hslot =>
    exact listOk_afterStepEnd (c := repeatCounted t.record (s.ch n)) (hs.of_list rfl) hslot
  | streamEnd t _ hslot => exact listOk_afterStepEnd hs hslot

theorem EndOutcome.listOk {deferred : List Ch} {n : Ch} {why : Owed} {s : State} {c : Channel}
    {es : List Emission} (h : EndOutcome deferred n why s c es) (hs : ListOk (s.ch n)) : ListOk c := by
  cases h with
  | owed => exact hs.of_list rfl
  | resolved _ _ _ hsettle => exact hsettle.listOk (by rw [ch_setCh_same]; exact hs.of_list rfl)

theorem CodeOutcome.listOk {deferred : List Ch} {n : Ch} {s : State} {c : Channel} {es : List Emission}
    (h : CodeOutcome deferred n s c es) (hs : ListOk (s.ch n)) : ListOk c := by
  cases h with
  | unplayed => exact hs.of_list rfl
  | memoryOn => exact hs.of_list rfl
  | memoryEnd _ _ _ _ _ _ _ _ _ hend => exact hend.listOk (by rw [ch_setCh_same]; exact hs.of_list rfl)
  | streamOn => exact hs.of_list rfl
  | streamEnd _ _ _ _ _ _ _ _ _ hend => exact hend.listOk (by rw [ch_setCh_same]; exact hs.of_list rfl)
  | underrun _ _ _ _ _ _ hend =>
    exact (hend.listOk (by rw [ch_setCh_same]; exact hs.of_list rfl)).of_list rfl

theorem listOk_arm {c : Channel} (h : ListOk c) (st : StartCond) (b : Option Counter) : ListOk (c.arm st b) := by
  refine ⟨(reloadLoops_length c.list).le.trans h.1, fun u hu => ?_⟩
  obtain ⟨t, ht, rfl⟩ := List.mem_map.mp hu
  exact slotGood_reloaded (h.2 t ht) _ (List.mem_singleton_self _)

theorem keptByChannels_list : KeptByChannels ListOk where
  stages n m :=
    { settle := fun _ _ _ _ _ hout h => hout.listOk h
      entry := by
        intro now c c' es hout h
        generalize entryOf now c = o at hout
        cases hout with
        | kept => exact h
        | entered => exact h.of_list rfl
      opens := fun _ h => h
      cue := fun _ _ _ _ hout h => by
        cases hout with
        | ignored => exact h
        | _ => exact h.of_list rfl
      priming := by
        intro c h
        rw [primedChannel]
        split
        · exact h.of_list rfl
        · exact h
      markers := fun _ h => h.of_list rfl
      codes := fun _ _ _ _ _ hout h => hout.listOk h }
  message := by
    intro s n c hc h
    cases hc with
    | cleared => exact listOk_nil rfl
    | appended hr hroom =>
      refine ⟨?_, fun u hu => ?_⟩
      · rw [List.length_append, List.length_singleton]
        exact hroom
      · obtain hu | hu := List.mem_append.mp hu
        · exact h.2 u hu
        · rw [List.mem_singleton.mp hu]
          exact slotGood_newSlot hr
    | replaced hr => exact h.set (slotGood_newSlot hr) rfl
    | started => exact listOk_arm h _ _
    | stopped flush => cases flush <;> exact h.of_list rfl
    | _ => exact h.of_list rfl
  restart := fun _ _ => listOk_nil rfl
  idle := fun _ h => h.of_list rfl
  pins := fun _ h => h.of_list rfl
  fresh := fun _ _ => listOk_nil rfl

/-! ### The steps that name a segment (R13) -/

/-- A record names segment `id`. -/
def recordNames (id : Nat) (r : StepRecord) : Bool := r.source == .memory id

theorem countP_namesSeg (id : Nat) (l : List Slot) :
    l.countP (namesSeg id) = (l.map Slot.record).countP (recordNames id) := by
  rw [List.countP_map]
  rfl

theorem stepsNaming_eq (s : State) (id : Nat) : stepsNaming s id =
    (s.ch .ch0).list.countP (namesSeg id) + (s.ch .ch1).list.countP (namesSeg id) +
      (s.ch .ch2).list.countP (namesSeg id) + (s.ch .ch3).list.countP (namesSeg id) := by
  simp only [stepsNaming, List.countP_append]

/-- The steps count by their records alone. -/
theorem stepsNaming_congr {s t : State}
    (h : ∀ n, (t.ch n).list.map Slot.record = (s.ch n).list.map Slot.record) : stepsNaming t = stepsNaming s := by
  funext id
  simp only [stepsNaming_eq, countP_namesSeg, h]

/-- One channel's list replaced. -/
theorem stepsNaming_setCh (s : State) (n : Ch) (c : Channel) (id : Nat) :
    stepsNaming (s.setCh n c) id + (s.ch n).list.countP (namesSeg id) =
      stepsNaming s id + c.list.countP (namesSeg id) := by
  simp only [stepsNaming_eq, ch_setCh]
  cases n <;> simp only [reduceCtorEq, if_true, if_false] <;> omega

/-! ### Reference counts (R13) -/

/-- The table's reference counts against the counts `N` of the steps naming each id. -/
structure RefsGood (segs : List Segment) (N : Nat → Nat) : Prop where
  ids : IdsOk segs
  refs : ∀ g ∈ segs, g.refs = N g.id ∧ (0 < g.refs → g.state = .sealed)
  named : ∀ id, 0 < N id → ∃ g ∈ segs, g.id = id

theorem findSeg_isSome_iff {segs : List Segment} {id : Nat} :
    (findSeg segs id).isSome = true ↔ ∃ g ∈ segs, g.id = id := by
  rw [← not_iff_not, Bool.not_eq_true, Option.isSome_eq_false_iff, Option.isNone_iff_eq_none, findSeg_none]
  simp

theorem refsOk_iff {s : State} : RefsOk s ↔ RefsGood s.mem.segs (stepsNaming s) := by
  refine ⟨fun h => ⟨h.1, h.2.1, fun id hid => findSeg_isSome_iff.mp (h.2.2 id hid)⟩,
    fun h => ⟨h.ids, h.refs, fun id hid => findSeg_isSome_iff.mpr (h.named id hid)⟩⟩

theorem idsOk_map {segs : List Segment} (h : IdsOk segs) {f : Segment → Segment} (hf : ∀ g, (f g).id = g.id) :
    IdsOk (segs.map f) := by
  refine List.pairwise_map.mpr (h.imp fun hlt => ?_)
  rwa [hf, hf]

/-- Two records of one id are one record. -/
theorem idsOk_unique {segs : List Segment} (h : IdsOk segs) {g k : Segment} (hg : g ∈ segs) (hk : k ∈ segs)
    (hid : g.id = k.id) : g = k := by
  induction segs with
  | nil => exact absurd hg List.not_mem_nil
  | cons x segs ih =>
    obtain ⟨hx, hsegs⟩ := List.pairwise_cons.mp h
    obtain heq | hg := List.mem_cons.mp hg
    · obtain hkeq | hk := List.mem_cons.mp hk
      · rw [heq, hkeq]
      · exact absurd (heq ▸ hid) (Nat.ne_of_lt (hx k hk))
    · obtain hkeq | hk := List.mem_cons.mp hk
      · exact absurd (hkeq ▸ hid).symm (Nat.ne_of_lt (hx g hg))
      · exact ih hsegs hg hk

theorem findSeg_of_mem {segs : List Segment} (h : IdsOk segs) {g : Segment} (hg : g ∈ segs) :
    findSeg segs g.id = some g := by
  cases hfind : findSeg segs g.id with
  | none => exact absurd rfl (findSeg_none.mp hfind g hg)
  | some k =>
    obtain ⟨hk, hid⟩ := findSeg_some hfind
    rw [idsOk_unique h hk hg hid]

theorem idsOk_insertSeg {segs : List Segment} (h : IdsOk segs) {g : Segment} (hg : ∀ k ∈ segs, k.id ≠ g.id) :
    IdsOk (insertSeg g segs) := by
  induction segs with
  | nil => exact List.pairwise_singleton _ _
  | cons x segs ih =>
    obtain ⟨hx, hsegs⟩ := List.pairwise_cons.mp h
    have hne := hg x (by simp)
    rw [insertSeg]
    split
    · next hlt =>
      refine List.pairwise_cons.mpr ⟨fun k hk => ?_, h⟩
      obtain rfl | hk := List.mem_cons.mp hk
      · exact hlt
      · exact lt_trans hlt (hx k hk)
    · next hnlt =>
      refine List.pairwise_cons.mpr ⟨fun k hk => ?_, ih hsegs fun k hk => hg k (List.mem_cons_of_mem _ hk)⟩
      obtain rfl | hk := mem_insertSeg.mp hk
      · omega
      · exact hx k hk

theorem idsOk_removeSeg {segs : List Segment} (h : IdsOk segs) (id : Nat) : IdsOk (removeSeg segs id) :=
  List.Pairwise.filter _ h

/-- The table mapped, its counts following the steps. -/
theorem RefsGood.map {segs : List Segment} {N N' : Nat → Nat} (h : RefsGood segs N) {f : Segment → Segment}
    (hid : ∀ g, (f g).id = g.id)
    (hrefs : ∀ g ∈ segs, (f g).refs = N' g.id ∧ (0 < (f g).refs → (f g).state = .sealed))
    (hnamed : ∀ id, 0 < N' id → ∃ g ∈ segs, g.id = id) : RefsGood (segs.map f) N' := by
  refine ⟨idsOk_map h.ids hid, fun k hk => ?_, fun id hpos => ?_⟩
  · obtain ⟨g, hg, rfl⟩ := List.mem_map.mp hk
    rw [hid]
    exact hrefs g hg
  · obtain ⟨g, hg, rfl⟩ := hnamed id hpos
    exact ⟨f g, List.mem_map_of_mem hg, hid g⟩

/-- A change of one record that keeps its id and count, and its state where it is referenced. -/
theorem RefsGood.update {segs : List Segment} {N : Nat → Nat} (h : RefsGood segs N) (id : Nat)
    {f : Segment → Segment} (hid : ∀ g, (f g).id = g.id) (hrefs : ∀ g, (f g).refs = g.refs)
    (hstate : ∀ g ∈ segs, g.id = id → 0 < g.refs → (f g).state = .sealed) : RefsGood (updateSeg segs id f) N := by
  refine h.map (fun g => ?_) (fun g hg => ?_) h.named
  · split
    · exact hid g
    · rfl
  · obtain ⟨hcount, hsealed⟩ := h.refs g hg
    split
    · next hgid =>
      rw [hrefs]
      exact ⟨hcount, hstate g hg hgid⟩
    · exact ⟨hcount, hsealed⟩

/-- A record that is not SEALED is named by no step. -/
theorem RefsGood.refs_eq_zero {segs : List Segment} {N : Nat → Nat} (h : RefsGood segs N) {g : Segment}
    (hg : g ∈ segs) (hstate : g.state ≠ .sealed) : g.refs = 0 := by
  by_contra hne
  exact hstate ((h.refs g hg).2 (Nat.pos_of_ne_zero hne))

theorem RefsGood.insert {segs : List Segment} {N : Nat → Nat} (h : RefsGood segs N) {g : Segment}
    (hnew : ∀ k ∈ segs, k.id ≠ g.id) (hrefs : g.refs = 0) : RefsGood (insertSeg g segs) N := by
  refine ⟨idsOk_insertSeg h.ids hnew, fun k hk => ?_, fun id hpos => ?_⟩
  · obtain rfl | hk := mem_insertSeg.mp hk
    · rw [hrefs]
      refine ⟨?_, fun hpos => absurd hpos (Nat.lt_irrefl _)⟩
      by_contra hne
      obtain ⟨x, hx, hxid⟩ := h.named k.id (Nat.pos_of_ne_zero (Ne.symm hne))
      exact hnew x hx hxid
    · exact h.refs k hk
  · obtain ⟨k, hk, hid⟩ := h.named id hpos
    exact ⟨k, mem_insertSeg.mpr (.inr hk), hid⟩

theorem RefsGood.remove {segs : List Segment} {N : Nat → Nat} (h : RefsGood segs N) {g : Segment}
    (hg : g ∈ segs) (hrefs : g.refs = 0) : RefsGood (removeSeg segs g.id) N := by
  refine ⟨idsOk_removeSeg h.ids g.id, fun k hk => h.refs k (mem_removeSeg.mp hk).1, fun id hpos => ?_⟩
  obtain ⟨k, hk, rfl⟩ := h.named id hpos
  refine ⟨k, mem_removeSeg.mpr ⟨hk, fun hid => ?_⟩, rfl⟩
  rw [hid, ← (h.refs g hg).1, hrefs] at hpos
  exact Nat.lt_irrefl _ hpos

/-- A record that may be stored, taken into the counts. -/
theorem RefsGood.refIn {m : SegMem} {N N' : Nat → Nat} (h : RefsGood m.segs N) {t : Slot}
    (hready : ∀ id, t.record.source = .memory id → ∃ g ∈ m.segs, g.id = id ∧ g.state = .sealed)
    (hN : ∀ id, N' id = N id + if namesSeg id t then 1 else 0) : RefsGood (refIn m t.record).segs N' := by
  unfold Machine.refIn
  cases hsrc : t.record.source with
  | stream =>
    have hsame : N' = N := funext fun id => by simp [hN, namesSeg, hsrc]
    rw [hsame]
    exact h
  | memory id =>
    obtain ⟨g, hg, rfl, hsealed⟩ := hready id hsrc
    have hnames : ∀ k, namesSeg k t = decide (g.id = k) := fun k => by
      by_cases hk : g.id = k <;> simp [namesSeg, hsrc, hk]
    refine h.map (fun k => ?_) (fun k hk => ?_) (fun id hpos => ?_)
    · split <;> rfl
    · obtain ⟨hcount, hstate⟩ := h.refs k hk
      rw [hN, hnames]
      split
      · next hid =>
        obtain rfl := idsOk_unique h.ids hk hg hid
        simp [hcount, hsealed]
      · next hid => simpa [Ne.symm hid] using ⟨hcount, hstate⟩
    · rw [hN, hnames] at hpos
      by_cases hid : g.id = id
      · exact ⟨g, hg, hid⟩
      · exact h.named id (by simpa [hid] using hpos)

/-- Steps taken out of the counts. -/
theorem RefsGood.lower {segs : List Segment} {N N' : Nat → Nat} (h : RefsGood segs N) {k : Nat → Nat}
    (hN : ∀ id, N' id + k id = N id) :
    RefsGood (segs.map fun g => { g with refs := g.refs - k g.id }) N' := by
  refine h.map (fun _ => rfl) (fun g hg => ?_) (fun id hpos => h.named id ?_)
  · obtain ⟨hcount, hstate⟩ := h.refs g hg
    have hthis := hN g.id
    refine ⟨by change g.refs - k g.id = N' g.id; omega, fun hpos => hstate ?_⟩
    change 0 < g.refs - k g.id at hpos
    omega
  · have hthis := hN id
    omega

theorem sealed_of_ready {s : State} {r : StepRecord} (h : checkSegment s r = .ready) (id : Nat)
    (hsrc : r.source = .memory id) : ∃ g ∈ s.mem.segs, g.id = id ∧ g.state = .sealed := by
  simp only [checkSegment, hsrc] at h
  cases hg : findSeg s.mem.segs id with
  | none =>
    rw [hg] at h
    cases h
  | some g =>
    rw [hg] at h
    obtain ⟨hmem, hid⟩ := findSeg_some hg
    refine ⟨g, hmem, hid, ?_⟩
    by_contra hne
    simp only [if_neg hne] at h
    cases h

/-! ### The rows -/

section Steps

variable {s t : State}

theorem RefsOk.congr (h : RefsOk s) (hsegs : t.mem.segs = s.mem.segs)
    (hrecords : ∀ n, (t.ch n).list.map Slot.record = (s.ch n).list.map Slot.record) : RefsOk t := by
  rw [refsOk_iff] at h ⊢
  rwa [hsegs, stepsNaming_congr hrecords]

theorem RefsOk.setCh (h : RefsOk s) {n : Ch} {c : Channel}
    (hrecords : c.list.map Slot.record = (s.ch n).list.map Slot.record) : RefsOk (s.setCh n c) :=
  h.congr rfl fun k => by
    rw [ch_setCh]
    split
    · next hk => rw [hk, hrecords]
    · rfl

theorem RefsOk.of_chans (h : RefsOk s) (hmem : t.mem = s.mem) (hchans : t.chans = s.chans) : RefsOk t :=
  h.congr (congrArg _ hmem) fun n => by rw [State.ch, hchans]; rfl

theorem refsOk_setMem {m : SegMem} (hm : RefsGood m.segs (stepsNaming s)) : RefsOk (s.setMem m) :=
  refsOk_iff.mpr hm

theorem reloadLoops_records (l : List Slot) : (reloadLoops l).map Slot.record = l.map Slot.record := by
  simp [reloadLoops]

theorem reportLate_mem (c : StartCond) (s : State) : (reportLate c s).mem = s.mem := by
  unfold reportLate
  split
  · split <;> rfl
  · rfl

theorem refsOk_message {k : Kind} (h : RefsOk s) (he : MessageEffect s k t) (hk : k ≠ .devReset) : RefsOk t := by
  have hgood := refsOk_iff.mp h
  cases he with
  | restarted => exact absurd rfl hk
  | defaulted => exact absurd rfl hk
  | defined hid hl hnew halloc =>
    exact refsOk_setMem (hgood.insert (findSeg_none.mp hnew) rfl)
  | written => exact refsOk_setMem hgood
  | sealed hg hopened =>
    exact refsOk_setMem (hgood.update _ (fun _ => rfl) (fun _ => rfl) fun _ _ _ _ => rfl)
  | deleted hg hrefs =>
    obtain ⟨hmem, rfl⟩ := findSeg_some hg
    exact refsOk_setMem (hgood.remove hmem hrefs)
  | @clearMoved g c hg hclearing hc =>
    refine RefsOk.congr (s := s.setMem _) (refsOk_setMem (hgood.update g.id (f := fun h => { h with cleared := c })
      (fun _ => rfl) (fun _ => rfl) fun x hx _ hpos => (hgood.refs x hx).2 hpos)) rfl fun _ => rfl
  | chConfigured => exact h.setCh rfl
  | masked => exact h.setCh rfl
  | statusRead => exact h.setCh rfl
  | listCleared n =>
    refine refsOk_iff.mpr ?_
    rw [foldl_refOut]
    exact hgood.lower fun id => stepsNaming_setCh s n { s.ch n with list := [], pendingCues := 0 } id
  | @appended n r hr hroom hready =>
    refine refsOk_iff.mpr ?_
    refine hgood.refIn (t := newSlot r) (sealed_of_ready hready) fun id => ?_
    have hcount := stepsNaming_setCh s n { s.ch n with list := (s.ch n).list ++ [newSlot r] } id
    rw [List.countP_append, List.countP_singleton] at hcount
    change stepsNaming (s.setCh n _) id = _
    omega
  | @replaced n idx r old hr hold hinactive hready =>
    refine refsOk_iff.mpr ?_
    obtain ⟨hidx, hget⟩ := List.getElem?_eq_some_iff.mp hold
    have hnames : ∀ id, namesSeg id (s.ch n).list[idx] = namesSeg id old := fun id => by rw [hget]
    have hcount : ∀ id, stepsNaming (s.setCh n { s.ch n with list := (s.ch n).list.set idx (newSlot r) }) id =
        (stepsNaming s id - if namesSeg id old then 1 else 0) + if namesSeg id (newSlot r) then 1 else 0 := by
      intro id
      have hset := stepsNaming_setCh s n { s.ch n with list := (s.ch n).list.set idx (newSlot r) } id
      rw [List.countP_set hidx, hnames] at hset
      have hle : (if namesSeg id old then 1 else 0) ≤ (s.ch n).list.countP (namesSeg id) := by
        split
        · next hin => exact List.countP_pos_iff.mpr ⟨old, List.mem_of_getElem? hold, hin⟩
        · exact Nat.zero_le _
      have hall : (s.ch n).list.countP (namesSeg id) ≤ stepsNaming s id := by
        rw [stepsNaming_eq]
        cases n <;> omega
      omega
    have hout : RefsGood (refOut s.mem old.record).segs
        (fun id => stepsNaming s id - if namesSeg id old then 1 else 0) := by
      rw [refOut_eq]
      refine hgood.lower (k := fun id => if namesSeg id old then 1 else 0) fun id => Nat.sub_add_cancel ?_
      split
      · next hin =>
        have hpos : 0 < (s.ch n).list.countP (namesSeg id) :=
          List.countP_pos_iff.mpr ⟨old, List.mem_of_getElem? hold, hin⟩
        rw [stepsNaming_eq]
        cases n <;> omega
      · exact Nat.zero_le _
    refine hout.refIn (t := newSlot r) (fun id hsrc => ?_) hcount
    obtain ⟨g, hg, hid, hsealed⟩ := sealed_of_ready hready id hsrc
    rw [refOut_eq]
    exact ⟨_, List.mem_map_of_mem hg, hid, hsealed⟩
  | started c hns =>
    refine h.congr ?_ fun n => ?_
    · rw [reportLate_mem c, eachCh_setCh hns (fun d => d.arm c (startBoundary c s.dev.counter))]
    · rw [reportLate_ch, eachCh_setCh hns (fun d => d.arm c (startBoundary c s.dev.counter)), ch_mapOn]
      split
      · exact reloadLoops_records _
      · rfl
  | stopped flush hns =>
    rw [eachCh_setCh hns]
    refine h.congr rfl fun n => ?_
    rw [ch_mapOn]
    split
    · cases flush <;> rfl
    · rfl
  | streamed => exact h.setCh rfl
  | streamedHigh => exact RefsOk.of_chans (s := streamTaken _ _ s) (h.setCh rfl) rfl rfl
  | flushed => exact h.setCh rfl
  | cueSent => exact h.of_chans (pushCue_mem ..) (pushCue_chans ..)
  | _ => exact h

theorem refsOk_clear (h : RefsOk s) (ht : ClearOutcome s t) : RefsOk t := by
  cases ht with
  | same => exact h
  | done hlist hg hclearing =>
    have hgood := refsOk_iff.mp h
    obtain ⟨hmem, rfl⟩ := findSeg_some hg
    refine refsOk_setMem (m := memCleared _ _ _ s.mem) (hgood.update _ (fun _ => rfl) (fun _ => rfl) fun x hx hid hpos => ?_)
    obtain rfl := idsOk_unique hgood.ids hx hmem hid
    rw [hgood.refs_eq_zero hx (by rw [hclearing]; decide)] at hpos
    exact absurd hpos (Nat.lt_irrefl _)

/-- SEG_CLEAR_DONE is the one row without a message that changes segment memory. -/
theorem actionOf_mem {c : Instr} (hc : carriesMessage c = false) (hclear : c ≠ .segClearDone) (s : State) :
    (actionOf c s).mem = s.mem := by
  have hmem : (rowBlocks c).mem = false := by
    cases c with
    | segClearDone => exact absurd rfl hclear
    | _ => rfl
  exact (touches_actionOf hc s).mem.resolve_left (by simp [hmem])

theorem refsOk_row {c : Instr} (hc : carriesMessage c = false) (h : RefsOk s) : RefsOk (actionOf c s) := by
  by_cases hclear : c = .segClearDone
  · subst hclear
    exact refsOk_clear h (clearOutcome s)
  · refine h.congr (congrArg _ (actionOf_mem hc hclear s)) fun n => ?_
    obtain heq | heq := row_ch hc s n <;> rw [heq]
    rfl

theorem refsOk_empty (hsegs : t.mem.segs = []) (hlists : ∀ n, (t.ch n).list = []) : RefsOk t := by
  have hnone : stepsNaming t = fun _ => 0 := funext fun id => by
    simp [stepsNaming_eq, hlists]
  rw [refsOk_iff, hsegs, hnone]
  exact ⟨List.Pairwise.nil, fun _ hg => absurd hg List.not_mem_nil, fun _ hpos => absurd hpos (Nat.lt_irrefl _)⟩

theorem refsOk_default {p : Pins} {keeps : Bool} {u : State} (hu : AtDefaults p keeps u) (r : Int) :
    RefsOk (evaluateTemp r u) := by
  obtain ⟨hmem, -⟩ := hu.kept r
  refine refsOk_empty (by rw [hmem, hu.mem]) fun n => ?_
  obtain ⟨out, hch⟩ := hu.chans n
  rw [evaluateTemp_ch, hch]
  rfl

theorem refsOk_restart (h : RefsOk s) : RefsOk (devResetPlayback s).state := by
  have hch : ∀ n, (devResetPlayback s).state.ch n = (s.ch n).restart := get_mapCh Channel.restart s.chans
  have hnone : stepsNaming (devResetPlayback s).state = fun _ => 0 := funext fun id => by
    simp [stepsNaming_eq, hch, Channel.restart]
  rw [refsOk_iff, hnone]
  exact (refsOk_iff.mp h).map (fun _ => rfl) (fun _ _ => ⟨rfl, fun hpos => absurd hpos (Nat.lt_irrefl _)⟩)
    fun _ hpos => absurd hpos (Nat.lt_irrefl _)

theorem refsOk_moment (h : RefsOk s) (ht : MomentOutcome s t) : RefsOk t := by
  obtain ⟨hmem, -⟩ := ht.sameOutside
  have hrecords : ∀ n, KeptByStages n s.mem fun _ d => d.list.map Slot.record = (s.ch n).list.map Slot.record :=
    fun n =>
      { settle := fun _ _ _ _ _ hout hd => hout.closed.records.trans hd
        entry := by
          intro now c c' es hout hd
          generalize entryOf now c = o at hout
          cases hout with
          | kept => exact hd
          | entered => exact hd
        opens := fun _ hd => hd
        cue := fun _ _ _ _ hout hd => by
          cases hout with
          | ignored => exact hd
          | _ => exact hd
        priming := by
          intro c hd
          rw [primedChannel]
          split <;> exact hd
        markers := fun _ hd => hd
        codes := fun _ _ _ _ _ hout hd => hout.presentsOnce.2.2.1.trans hd }
  exact h.congr (congrArg _ hmem) fun n => (hrecords n).moment rfl ht rfl

end Steps

theorem keptByParts_refs : KeptByParts RefsOk where
  pending := fun _ _ h => h
  link := fun _ _ h => h
  moment := fun _ _ _ ht h => refsOk_moment h ht
  effect := fun _ _ _ _ _ _ hk he h => refsOk_message h he hk
  restart := fun _ _ _ h => refsOk_restart h
  row := fun _ _ hc _ _ h => refsOk_row hc h
  assert := fun s _ _ h => h.congr rfl fun n => by
    have hch : (pinResetAssert s).ch n = holdPins (s.ch n) := get_mapCh holdPins s.chans n
    rw [hch]
    rfl
  default := fun reading s _ _ _ => refsOk_default (atDefaults_freshForAll reading s) reading
  fresh := fun p s _ => refsOk_default (atDefaults_defaults p s) p.reading

end Sys2Proof.Machine

namespace Sys2Proof.Proofs

open Sys2Proof.Machine

/-- Settles O55: the lists channel by channel, the counts message by message. -/
theorem listsAndReferencesKept : Obligations.ListsAndReferencesKept :=
  keptByStep_and (keptByStep_of_channels keptByChannels_list) (keptByStep_of_parts keptByParts_refs)

end Sys2Proof.Proofs
end

section
/-! PROOF. Every step keeps every store word in exactly one segment or free region, the records as R2 fixes them, and
the clear list (R2, R3, R7). -/

namespace Sys2Proof.Machine

/-! ### Runs of words -/

/-- A run of words counted at word `a`. -/
def runCount (base len a : Nat) : Nat := if inRun base len a then 1 else 0

theorem inRun_iff {base len a : Nat} : inRun base len a = true ↔ base ≤ a ∧ a < base + len := by
  simp [inRun]

/-- Two runs that touch, counted as one. -/
theorem runCount_add (base len len' a : Nat) :
    runCount base (len + len') a = runCount base len a + runCount (base + len) len' a := by
  simp only [runCount, inRun_iff]
  split <;> split <;> split <;> omega

/-- The free regions that hold word `a`. -/
abbrev freeAt (l : List Region) (a : Nat) : Nat := l.countP fun r => inRun r.base r.len a

/-- The segments that hold word `a`. -/
abbrev segsAt (segs : List Segment) (a : Nat) : Nat := segs.countP fun g => inRun g.base g.alloc a

theorem freeAt_cons (r : Region) (l : List Region) (a : Nat) :
    freeAt (r :: l) a = freeAt l a + runCount r.base r.len a := List.countP_cons

theorem segsAt_cons (g : Segment) (segs : List Segment) (a : Nat) :
    segsAt (g :: segs) a = segsAt segs a + runCount g.base g.alloc a := List.countP_cons

/-! ### The free-region list (R3 to R5) -/

theorem regionsOk_cons {r : Region} {l : List Region} : RegionsOk (r :: l) ↔
    ((∀ q ∈ l, r.base + r.len < q.base) ∧ r.base % 16 = 0 ∧ r.len % 16 = 0 ∧ 16 ≤ r.len) ∧ RegionsOk l := by
  simp only [RegionsOk, List.pairwise_cons, List.forall_mem_cons]
  tauto

/-- An allocation leaves the words it does not take. -/
theorem freeAt_allocate {l l' : List Region} {n base : Nat} (h : allocate l n = some (base, l')) (a : Nat) :
    freeAt l a = freeAt l' a + runCount base n a := by
  obtain ⟨pre, r, post, rfl, -, hfits, rfl, rfl⟩ := (allocate_eq_some_iff ..).mp h
  simp only [freeAt, List.countP_append]
  change _ + freeAt (r :: post) a = _ + freeAt _ a + _
  rw [freeAt_cons]
  split
  · next hall =>
    rw [hall]
    omega
  · rw [freeAt_cons]
    dsimp only
    have hsplit := runCount_add r.base n (r.len - n) a
    rw [Nat.add_sub_cancel' hfits] at hsplit
    omega

theorem regionsOk_allocate {l l' : List Region} {n base : Nat} (h : allocate l n = some (base, l'))
    (hn : n % 16 = 0) (hl : RegionsOk l) : RegionsOk l' ∧ base % 16 = 0 := by
  obtain ⟨pre, r, post, rfl, -, hfits, rfl, rfl⟩ := (allocate_eq_some_iff ..).mp h
  clear h
  induction pre with
  | nil =>
    obtain ⟨⟨hafter, hbase, hlen, hpos⟩, hpost⟩ := regionsOk_cons.mp hl
    refine ⟨?_, hbase⟩
    rw [List.nil_append]
    split
    · exact hpost
    · refine regionsOk_cons.mpr ⟨⟨fun q hq => ?_, ?_⟩, hpost⟩
      · have hthis := hafter q hq
        dsimp only
        omega
      · dsimp only
        omega
  | cons p pre ih =>
    obtain ⟨⟨hafter, hp⟩, hrest⟩ := regionsOk_cons.mp hl
    obtain ⟨hpre, hbase⟩ := ih hrest
    refine ⟨regionsOk_cons.mpr ⟨⟨fun q hq => ?_, hp⟩, hpre⟩, hbase⟩
    have hr := hafter r (by simp)
    obtain hq | hq := List.mem_append.mp hq
    · exact hafter q (List.mem_append_left _ hq)
    · have hpost : ∀ q ∈ post, p.base + p.len < q.base := fun q hq => hafter q (by simp [hq])
      split at hq
      · exact hpost q hq
      · obtain rfl | hq := List.mem_cons.mp hq
        · dsimp only
          omega
        · exact hpost q hq

/-- A release gives back the words of its run. -/
theorem freeAt_release (base n a : Nat) (l : List Region) :
    freeAt (release base n l) a = freeAt l a + runCount base n a := by
  induction l with
  | nil => exact freeAt_cons _ _ _
  | cons r l ih =>
    rw [release.eq_def]
    dsimp only
    split_ifs with hbefore hright hleft
    · exact freeAt_cons _ _ _
    · simp only [freeAt_cons, runCount_add, hright]
      omega
    · cases l with
      | nil =>
        simp only [freeAt_cons, runCount_add, hleft]
        omega
      | cons q l =>
        dsimp only
        split
        · next hboth =>
          simp only [freeAt_cons, runCount_add, hleft, hboth, ← Nat.add_assoc]
          omega
        · simp only [freeAt_cons, runCount_add, hleft]
          omega
    · simp only [freeAt_cons, ih]
      omega

/-- A release begins no earlier than its run or the regions did. -/
theorem release_above {x base n : Nat} {l : List Region} (hbase : x < base) (hl : ∀ r ∈ l, x < r.base) :
    ∀ r ∈ release base n l, x < r.base := by
  induction l with
  | nil => simpa [release] using hbase
  | cons r l ih =>
    obtain ⟨hr, hrest⟩ := List.forall_mem_cons.mp hl
    rw [release.eq_def]
    dsimp only
    split_ifs
    · simp [hbase, hr]
      exact hrest
    · simp [hbase]
      exact hrest
    · cases l with
      | nil => simpa using hr
      | cons q l =>
        obtain ⟨hq, hrest⟩ := List.forall_mem_cons.mp hrest
        dsimp only
        split
        · simp [hr]
          exact hrest
        · simp [hr, hq]
          exact hrest
    · exact List.forall_mem_cons.mpr ⟨hr, ih hrest⟩

theorem regionsOk_release {base n : Nat} {l : List Region} (hbase : base % 16 = 0) (hn : n % 16 = 0)
    (hpos : 16 ≤ n) (hl : RegionsOk l) (hapart : ∀ r ∈ l, base + n ≤ r.base ∨ r.base + r.len ≤ base) :
    RegionsOk (release base n l) := by
  induction l with
  | nil => exact regionsOk_cons.mpr ⟨⟨by simp, hbase, hn, hpos⟩, hl⟩
  | cons r l ih =>
    obtain ⟨⟨hafter, hr⟩, hrest⟩ := regionsOk_cons.mp hl
    obtain ⟨haway, hapart⟩ := List.forall_mem_cons.mp hapart
    rw [release.eq_def]
    dsimp only
    split_ifs with hbefore hright hleft
    · refine regionsOk_cons.mpr ⟨⟨List.forall_mem_cons.mpr ⟨hbefore, fun q hq => ?_⟩, hbase, hn, hpos⟩, hl⟩
      have hthis := hafter q hq
      dsimp only
      omega
    · refine regionsOk_cons.mpr ⟨⟨fun q hq => ?_, ?_⟩, hrest⟩
      · have hthis := hafter q hq
        dsimp only
        omega
      · dsimp only
        omega
    · cases l with
      | nil =>
        refine regionsOk_cons.mpr ⟨⟨by simp, ?_⟩, hrest⟩
        dsimp only
        omega
      | cons q l =>
        obtain ⟨⟨hqafter, hq⟩, hqrest⟩ := regionsOk_cons.mp hrest
        have hrq := hafter q (by simp)
        have hqaway := hapart q (by simp)
        dsimp only
        split
        · refine regionsOk_cons.mpr ⟨⟨fun p hp => ?_, ?_⟩, hqrest⟩
          · have hthis := hqafter p hp
            dsimp only
            omega
          · dsimp only
            omega
        · refine regionsOk_cons.mpr ⟨⟨List.forall_mem_cons.mpr ⟨?_, fun p hp => ?_⟩, ?_⟩, hrest⟩
          · dsimp only
            omega
          · have hthis := hqafter p hp
            dsimp only
            omega
          · dsimp only
            omega
    · exact regionsOk_cons.mpr ⟨⟨release_above (by omega) hafter, hr⟩, ih hrest hapart⟩

/-! ### The segment records (R2) -/

theorem segsAt_insertSeg (g : Segment) (segs : List Segment) (a : Nat) :
    segsAt (insertSeg g segs) a = segsAt segs a + runCount g.base g.alloc a := by
  induction segs with
  | nil => exact segsAt_cons _ _ _
  | cons h segs ih =>
    rw [insertSeg]
    split
    · exact segsAt_cons _ _ _
    · rw [segsAt_cons, segsAt_cons, ih]
      omega

theorem segsAt_removeSeg {segs : List Segment} (h : IdsOk segs) {g : Segment} (hg : g ∈ segs) (a : Nat) :
    segsAt segs a = segsAt (removeSeg segs g.id) a + runCount g.base g.alloc a := by
  induction segs with
  | nil => exact absurd hg List.not_mem_nil
  | cons x segs ih =>
    obtain ⟨hx, hsegs⟩ := List.pairwise_cons.mp h
    obtain heq | hg := List.mem_cons.mp hg
    · subst heq
      have hrest : removeSeg (g :: segs) g.id = segs := by
        rw [removeSeg, List.filter_cons_of_neg (by simp), List.filter_eq_self]
        intro k hk
        exact bne_iff_ne.mpr (Nat.ne_of_gt (hx k hk))
      rw [hrest, segsAt_cons]
    · have hne : x.id ≠ g.id := Nat.ne_of_lt (hx g hg)
      have hrest : removeSeg (x :: segs) g.id = x :: removeSeg segs g.id :=
        List.filter_cons_of_pos (bne_iff_ne.mpr hne)
      rw [hrest, segsAt_cons, segsAt_cons, ih hsegs hg]
      omega

/-- The segment table in good order: the regions, the records and the clear list. -/
structure MemGood (m : SegMem) : Prop where
  owned : ∀ a, freeAt m.free a + segsAt m.segs a = if a < Config.storeWords then 1 else 0
  regions : RegionsOk m.free
  ids : IdsOk m.segs
  records : ∀ g ∈ m.segs, SegmentOk g
  clears : ClearListOk m

theorem tableOk_iff {s : State} : TableOk s ↔ MemGood s.mem :=
  ⟨fun ⟨ho, hr, hi, hg, hc⟩ => ⟨ho, hr, hi, hg, hc⟩, fun ⟨ho, hr, hi, hg, hc⟩ => ⟨ho, hr, hi, hg, hc⟩⟩

section Memory

variable {m : SegMem} (h : MemGood m)
include h

theorem MemGood.setStore (st : Memory) : MemGood { m with store := st } := { h with clears := h.clears }

/-- The records changed one by one, each where it was. -/
theorem MemGood.map {f : Segment → Segment}
    (hplace : ∀ g, (f g).id = g.id ∧ (f g).base = g.base ∧ (f g).alloc = g.alloc)
    (hgood : ∀ g ∈ m.segs, SegmentOk g → SegmentOk (f g)) {l : List Nat}
    (hclears : ClearListOk { m with segs := m.segs.map f, clearList := l }) :
    MemGood { m with segs := m.segs.map f, clearList := l } where
  owned := fun a => by
    have hsame : segsAt (m.segs.map f) a = segsAt m.segs a := by
      rw [segsAt, List.countP_map]
      refine List.countP_congr fun g _ => ?_
      obtain ⟨-, hbase, halloc⟩ := hplace g
      simp [hbase, halloc]
    change _ + segsAt (m.segs.map f) a = _
    rw [hsame]
    exact h.owned a
  regions := h.regions
  ids := idsOk_map h.ids fun g => (hplace g).1
  records := fun k hk => by
    obtain ⟨g, hg, rfl⟩ := List.mem_map.mp hk
    exact hgood g hg (h.records g hg)
  clears := hclears

/-- The records changed one by one with the same of them CLEARING. -/
theorem MemGood.mapSame {f : Segment → Segment}
    (hplace : ∀ g, (f g).id = g.id ∧ (f g).base = g.base ∧ (f g).alloc = g.alloc)
    (hgood : ∀ g ∈ m.segs, SegmentOk g → SegmentOk (f g))
    (hstate : ∀ g ∈ m.segs, (f g).state = .clearing ↔ g.state = .clearing) :
    MemGood { m with segs := m.segs.map f } := by
  refine h.map hplace hgood (l := m.clearList) ⟨h.clears.1, fun id => ?_⟩
  rw [h.clears.2 id]
  constructor
  · rintro ⟨g, hg, rfl, hclearing⟩
    exact ⟨f g, List.mem_map_of_mem hg, (hplace g).1, (hstate g hg).mpr hclearing⟩
  · rintro ⟨k, hk, rfl, hclearing⟩
    obtain ⟨g, hg, rfl⟩ := List.mem_map.mp hk
    exact ⟨g, hg, (hplace g).1.symm, (hstate g hg).mp hclearing⟩

/-- Reference counts are no part of the table's form. -/
theorem MemGood.mapRefs (n : Segment → Nat) :
    MemGood { m with segs := m.segs.map fun g => { g with refs := n g } } :=
  h.mapSame (fun _ => ⟨rfl, rfl, rfl⟩) (fun _ _ hg => hg) fun _ _ => Iff.rfl

/-- One record changed with no change to whether it is CLEARING. -/
theorem MemGood.update (id : Nat) {f : Segment → Segment}
    (hplace : ∀ g, (f g).id = g.id ∧ (f g).base = g.base ∧ (f g).alloc = g.alloc)
    (hgood : ∀ g ∈ m.segs, g.id = id → SegmentOk g → SegmentOk (f g))
    (hstate : ∀ g ∈ m.segs, g.id = id → ((f g).state = .clearing ↔ g.state = .clearing)) :
    MemGood { m with segs := updateSeg m.segs id f } := by
  refine h.mapSame (fun g => ?_) (fun g hg hok => ?_) (fun g hg => ?_)
  · split
    · exact hplace g
    · exact ⟨rfl, rfl, rfl⟩
  · split
    · next hid => exact hgood g hg hid hok
    · exact hok
  · split
    · next hid => exact hstate g hg hid
    · exact Iff.rfl

theorem MemGood.refIn (r : StepRecord) : MemGood (refIn m r) := by
  unfold Machine.refIn
  split
  · exact h.update _ (fun _ => ⟨rfl, rfl, rfl⟩) (fun _ _ _ hg => hg) fun _ _ _ => Iff.rfl
  · exact h

/-- The record found under an id is the only one of that id. -/
theorem MemGood.eq_of_findSeg {id : Nat} {g k : Segment} (hg : findSeg m.segs id = some g) (hk : k ∈ m.segs)
    (hid : k.id = id) : k = g := by
  obtain ⟨hmem, hgid⟩ := findSeg_some hg
  exact idsOk_unique h.ids hk hmem (hid.trans hgid.symm)

/-- SEG-DEFINE (R6). -/
theorem MemGood.define {id l base : Nat} {free : List Region} (hid : id ≤ 255) (hl : 1 ≤ l ∧ l ≤ Config.storeWords)
    (hnew : findSeg m.segs id = none) (halloc : allocate m.free (allocation l) = some (base, free)) :
    MemGood (memDefined id l base free m) := by
  have hbounds := allocation_bounds l
  obtain ⟨hregions, hbase⟩ := regionsOk_allocate halloc hbounds.1 h.regions
  have hfresh : ∀ k ∈ m.segs, k.id ≠ id := findSeg_none.mp hnew
  refine ⟨fun a => ?_, hregions, idsOk_insertSeg h.ids hfresh, fun g hg => ?_, ?_, fun k => ?_⟩
  · change freeAt free a + segsAt (insertSeg _ _) a = _
    rw [segsAt_insertSeg, ← h.owned a, freeAt_allocate halloc a]
    change _ + (_ + runCount base (allocation l) a) = _
    omega
  · obtain rfl | hg := mem_insertSeg.mp hg
    · exact ⟨hid, hl.1, hl.2, rfl, rfl, rfl, hbase, Nat.zero_le _, fun hne => absurd rfl hne⟩
    · exact h.records g hg
  · refine List.Nodup.append h.clears.1 (List.nodup_singleton _) fun k hk hkid => ?_
    obtain ⟨g, hg, hgid, -⟩ := (h.clears.2 k).mp hk
    exact hfresh g hg (hgid.trans (List.mem_singleton.mp hkid))
  · change k ∈ m.clearList ++ [id] ↔ ∃ g ∈ insertSeg _ m.segs, _
    rw [List.mem_append, List.mem_singleton, h.clears.2 k]
    constructor
    · rintro (⟨g, hg, hgid, hclearing⟩ | rfl)
      · exact ⟨g, mem_insertSeg.mpr (.inr hg), hgid, hclearing⟩
      · exact ⟨newSegment k l base, mem_insertSeg.mpr (.inl rfl), rfl, rfl⟩
    · rintro ⟨g, hg, hgid, hclearing⟩
      obtain rfl | hg := mem_insertSeg.mp hg
      · exact .inr hgid.symm
      · exact .inl ⟨g, hg, hgid, hclearing⟩

/-- A segment and a free region share no word. -/
theorem MemGood.apart {g : Segment} (hg : g ∈ m.segs) {r : Region} (hr : r ∈ m.free) :
    g.base + g.alloc ≤ r.base ∨ r.base + r.len ≤ g.base := by
  by_contra hover
  have hgpos : 0 < g.alloc := by
    obtain ⟨-, -, -, -, halloc, -⟩ := h.records g hg
    have hbounds := allocation_bounds g.len
    omega
  have hrpos : 0 < r.len := by
    have hok := h.regions.2 r hr
    omega
  have hfree : 0 < freeAt m.free (max g.base r.base) :=
    List.countP_pos_iff.mpr ⟨r, hr, inRun_iff.mpr (by omega)⟩
  have hsegs : 0 < segsAt m.segs (max g.base r.base) :=
    List.countP_pos_iff.mpr ⟨g, hg, inRun_iff.mpr (by omega)⟩
  have howned := h.owned (max g.base r.base)
  split at howned <;> omega

/-- SEG-DELETE (R11). -/
theorem MemGood.delete {id : Nat} {g : Segment} (hfind : findSeg m.segs id = some g) :
    MemGood { m with
      segs := removeSeg m.segs id
      free := release g.base g.alloc m.free
      clearList := m.clearList.filter (fun i => i != id) } := by
  obtain ⟨hg, rfl⟩ := findSeg_some hfind
  obtain ⟨-, -, -, -, halloc, -, hbase, -⟩ := h.records g hg
  have hbounds := allocation_bounds g.len
  refine ⟨fun a => ?_,
    regionsOk_release hbase (by omega) (by omega) h.regions fun r hr => h.apart hg hr,
    idsOk_removeSeg h.ids _, fun k hk => h.records k (mem_removeSeg.mp hk).1, h.clears.1.filter _, fun k => ?_⟩
  · change freeAt (release _ _ _) a + segsAt (removeSeg _ _) a = _
    rw [freeAt_release, ← h.owned a, segsAt_removeSeg h.ids hg a]
    omega
  · change k ∈ m.clearList.filter _ ↔ ∃ x ∈ removeSeg m.segs g.id, _
    rw [List.mem_filter, h.clears.2 k, bne_iff_ne]
    constructor
    · rintro ⟨⟨x, hx, rfl, hclearing⟩, hne⟩
      exact ⟨x, mem_removeSeg.mpr ⟨hx, hne⟩, rfl, hclearing⟩
    · rintro ⟨x, hx, rfl, hclearing⟩
      obtain ⟨hx, hne⟩ := mem_removeSeg.mp hx
      exact ⟨⟨x, hx, rfl, hclearing⟩, hne⟩

/-- SEG_CLEAR_DONE (R7). -/
theorem MemGood.cleared {id : Nat} {rest : List Nat} {g : Segment} (hlist : m.clearList = id :: rest)
    (hfind : findSeg m.segs id = some g) : MemGood (memCleared id g rest m) := by
  have hstore := h.setStore (Memory.zero m.store g.base g.alloc)
  obtain ⟨hnodup, hclears⟩ := h.clears
  rw [hlist] at hnodup hclears
  obtain ⟨hnot, hrest⟩ := List.nodup_cons.mp hnodup
  refine hstore.map (fun k => ?_) (fun k _ hok => ?_) (l := rest) ⟨hrest, fun k => ?_⟩
  · split <;> exact ⟨rfl, rfl, rfl⟩
  · obtain ⟨hid, hlo, hhi, hplay, halloc, hpadded, hbase, hle, hcleared⟩ := hok
    split
    · exact ⟨hid, hlo, hhi, hplay, halloc, hpadded, hbase, Nat.le_refl _, fun _ => rfl⟩
    · exact ⟨hid, hlo, hhi, hplay, halloc, hpadded, hbase, hle, hcleared⟩
  · change k ∈ rest ↔ ∃ x ∈ updateSeg m.segs id _, _
    constructor
    · intro hk
      obtain ⟨x, hx, hxid, hclearing⟩ := (hclears k).mp (List.mem_cons_of_mem _ hk)
      have hne : x.id ≠ id := fun heq => hnot (by rwa [← heq, hxid])
      exact ⟨x, mem_updateSeg.mpr ⟨x, hx, (if_neg hne).symm⟩, hxid, hclearing⟩
    · rintro ⟨x, hx, hxid, hclearing⟩
      obtain ⟨y, hy, rfl⟩ := mem_updateSeg.mp hx
      split at hxid
      · next heq =>
        rw [if_pos heq] at hclearing
        cases hclearing
      · next hne =>
        rw [if_neg hne] at hclearing
        obtain rfl | hk := List.mem_cons.mp ((hclears k).mpr ⟨y, hy, hxid, hclearing⟩)
        · exact absurd hxid hne
        · exact hk

end Memory

theorem memGood_default : MemGood {} where
  owned := tableOk_reset.1
  regions := tableOk_reset.2.1
  ids := List.Pairwise.nil
  records := fun _ hg => absurd hg List.not_mem_nil
  clears := tableOk_reset.2.2.2.2

/-! ### The rows -/

section Steps

variable {s t : State}

theorem memGood_message {k : Kind} (h : MemGood s.mem) (he : MessageEffect s k t) (hk : k ≠ .devReset) :
    MemGood t.mem := by
  cases he with
  | restarted => exact absurd rfl hk
  | defaulted => exact absurd rfl hk
  | defined hid hl hnew halloc => exact h.define hid hl hnew halloc
  | written a xs => exact h.setStore _
  | sealed hg hopened =>
    refine (h.setStore _).update _ (fun _ => ⟨rfl, rfl, rfl⟩) (fun k hk hid hok => ?_)
      (fun k hk hid => ?_)
    · obtain ⟨hkid, hlo, hhi, hplay, halloc, hpadded, hbase, hle, hcleared⟩ := hok
      refine ⟨hkid, hlo, hhi, hplay, halloc, hpadded, hbase, hle, fun _ => hcleared ?_⟩
      rw [h.eq_of_findSeg hg hk hid, hopened]
      decide
    · rw [h.eq_of_findSeg hg hk hid, hopened]
      exact iff_of_false (fun hsealed => nomatch hsealed) (by decide)
  | deleted hg => exact h.delete hg
  | clearMoved hg hclearing hc =>
    refine (h.setStore _).update _ (fun _ => ⟨rfl, rfl, rfl⟩) (fun k hk hid hok => ?_)
      (fun _ _ _ => Iff.rfl)
    obtain rfl := h.eq_of_findSeg hg hk hid
    obtain ⟨hkid, hlo, hhi, hplay, halloc, hpadded, hbase, -⟩ := hok
    exact ⟨hkid, hlo, hhi, hplay, halloc, hpadded, hbase, Nat.le_of_lt hc, fun hne => absurd hclearing hne⟩
  | listCleared n =>
    rw [foldl_refOut]
    exact h.mapRefs _
  | appended n hr hroom hready => exact h.refIn _
  | replaced n hr hold hinactive hready =>
    rw [refOut_eq]
    exact (h.mapRefs _).refIn _
  | started c hns =>
    rw [reportLate_mem, eachCh_setCh hns (fun d => d.arm c (startBoundary c s.dev.counter))]
    exact h
  | stopped flush hns =>
    rw [eachCh_setCh hns]
    exact h
  | cueSent =>
    rw [pushCue_mem]
    exact h
  | _ => exact h

theorem memGood_row {c : Instr} (hc : carriesMessage c = false) (h : MemGood s.mem) : MemGood (actionOf c s).mem := by
  by_cases hclear : c = .segClearDone
  · subst hclear
    have hout : ClearOutcome s (actionOf .segClearDone s) := clearOutcome s
    generalize actionOf .segClearDone s = t at hout
    cases hout with
    | same => exact h
    | done hlist hg hclearing => exact h.cleared hlist hg
  · rwa [actionOf_mem hc hclear]

theorem memGood_evaluated {p : Pins} {keeps : Bool} {u : State} (hu : AtDefaults p keeps u) (r : Int) :
    MemGood (evaluateTemp r u).mem := by
  obtain ⟨hmem, -⟩ := hu.kept r
  rw [hmem, hu.mem]
  exact memGood_default

end Steps

theorem keptByParts_table : KeptByParts fun s => MemGood s.mem where
  pending := fun _ _ h => h
  link := fun _ _ h => h
  moment := fun s t _ ht h => by
    obtain ⟨hmem, -⟩ := ht.sameOutside
    rwa [hmem]
  effect := fun _ _ _ _ _ _ hk he h => memGood_message h he hk
  restart := fun _ _ _ h => h.mapRefs fun _ => 0
  row := fun _ _ hc _ _ h => memGood_row hc h
  assert := fun _ _ _ h => h
  default := fun reading s _ _ _ => memGood_evaluated (atDefaults_freshForAll reading s) reading
  fresh := fun p s _ => memGood_evaluated (atDefaults_defaults p s) p.reading

/-! ### The store's form -/

section Store

variable {s t : State}

theorem storeOk_of_same (h : StoreOk s) (hstore : t.mem.store = s.mem.store) : StoreOk t := by
  rwa [StoreOk, hstore]

theorem storeOk_message {k : Kind} (h : StoreOk s) (he : MessageEffect s k t) (hk : k ≠ .devReset) : StoreOk t := by
  cases he with
  | restarted => exact absurd rfl hk
  | defaulted => exact absurd rfl hk
  | written a xs => exact memory_wf_writeAll a xs h
  | sealed hg hopened => exact memory_wf_padStore _ h
  | clearMoved => exact memory_wf_zero _ _ h
  | listCleared n =>
    refine storeOk_of_same h ?_
    rw [foldl_refOut]
    rfl
  | appended n => exact storeOk_of_same h (refIn_store _ _)
  | replaced n => exact storeOk_of_same h ((refIn_store _ _).trans (refOut_store _ _))
  | started c hns =>
    refine storeOk_of_same h ?_
    rw [reportLate_mem, eachCh_setCh hns (fun d => d.arm c (startBoundary c s.dev.counter))]
  | stopped flush hns =>
    rw [eachCh_setCh hns]
    exact h
  | cueSent => exact storeOk_of_same h (by rw [pushCue_mem])
  | _ => exact h

theorem storeOk_row {c : Instr} (hc : carriesMessage c = false) (h : StoreOk s) : StoreOk (actionOf c s) := by
  by_cases hclear : c = .segClearDone
  · subst hclear
    have hout : ClearOutcome s (actionOf .segClearDone s) := clearOutcome s
    generalize actionOf .segClearDone s = t at hout
    cases hout with
    | same => exact h
    | done => exact memory_wf_zero _ _ h
  · exact storeOk_of_same h (by rw [actionOf_mem hc hclear])

theorem storeOk_evaluated {p : Pins} {keeps : Bool} {u : State} (hu : AtDefaults p keeps u) (r : Int) :
    StoreOk (evaluateTemp r u) := by
  obtain ⟨hmem, -⟩ := hu.kept r
  rw [StoreOk, hmem, hu.mem]
  rfl

end Store

theorem keptByParts_store : KeptByParts StoreOk where
  pending := fun _ _ h => h
  link := fun _ _ h => h
  moment := fun s t _ ht h => by
    obtain ⟨hmem, -⟩ := ht.sameOutside
    exact storeOk_of_same h (by rw [hmem])
  effect := fun _ _ _ _ _ _ hk he h => storeOk_message h he hk
  restart := fun _ _ _ h => h
  row := fun _ _ hc _ _ h => storeOk_row hc h
  assert := fun _ _ _ h => h
  default := fun reading s _ _ _ => storeOk_evaluated (atDefaults_freshForAll reading s) reading
  fresh := fun p s _ => storeOk_evaluated (atDefaults_defaults p s) p.reading

theorem keptByStep_table : KeptByStep TableOk := fun _ t h hstep =>
  tableOk_iff.mpr (keptByStep_of_parts keptByParts_table _ t (tableOk_iff.mp h) hstep)

end Sys2Proof.Machine

namespace Sys2Proof.Proofs

open Sys2Proof.Machine

/-- Settles O54: the segment table is in good order, and the store in its form, after every row that changes them. -/
theorem segmentTableKept : Obligations.SegmentTableKept :=
  keptByStep_and (keptByStep_of_parts keptByParts_store) keptByStep_table

end Sys2Proof.Proofs
end

section
/-! PROOF. Every step keeps a RUNNING channel at a step of its list, a memory step inside its segment, and every step
entered played (R51 to R57, R90). -/

namespace Sys2Proof.Machine

/-! ### One channel -/

/-- A channel's step stands and plays as it must against the segments `segs`; `b`: a boundary stands open. -/
structure StepGood (b : Bool) (segs : List Segment) (c : Channel) : Prop where
  prime : 1 ≤ c.settings.prime
  step : c.playback = .running → c.run.step < c.list.length
  frac : c.playback = .running → c.run.f < 65536
  pos : c.playback = .running → ∀ r id g, c.record = some r → r.source = .memory id → findSeg segs id = some g →
    c.run.i < g.play
  fresh : c.playback = .running → c.run.phase ≠ .playing → c.run.consumed = 0
  played : c.playback = .running → ∀ r, c.record = some r → r.source = .stream → c.run.phase = .playing →
    1 ≤ c.run.consumed ∨ (b = true ∧ c.stream.fifo ≠ [])

theorem stepsGood_iff {s : State} :
    PositionOk s ∧ PlayedOk s ↔ ∀ n, StepGood s.boundaryOpen s.mem.segs (s.ch n) := by
  constructor
  · rintro ⟨hpos, hplayed⟩ n
    obtain ⟨hprime, hrun⟩ := hplayed n
    exact ⟨hprime, fun h => (hpos n h).1, fun h => (hpos n h).2.1,
      fun h r id g hr hsrc hg => (hpos n h).2.2 g ⟨r, hr, id, hsrc, hg⟩, fun h => (hrun h).2.1,
      fun h => (hrun h).2.2⟩
  · intro h
    refine ⟨fun n hn => ⟨(h n).step hn, (h n).frac hn, ?_⟩, fun n => ⟨(h n).prime, fun hn =>
      ⟨(h n).step hn, (h n).fresh hn, (h n).played hn⟩⟩⟩
    rintro g ⟨r, hr, id, hsrc, hg⟩
    exact (h n).pos hn r id g hr hsrc hg

section Channel

variable {b : Bool} {segs : List Segment} {c d : Channel}

theorem StepGood.mono (h : StepGood false segs c) : StepGood b segs c :=
  { h with played := fun hc r hr hsrc hp => .inl ((h.played hc r hr hsrc hp).resolve_right fun hb => nomatch hb.1) }

/-- A channel that is not RUNNING need only have its prime level. -/
theorem stepGood_of_not_running (hprime : 1 ≤ c.settings.prime) (hc : c.playback ≠ .running) :
    StepGood b segs c :=
  ⟨hprime, fun h => absurd h hc, fun h => absurd h hc, fun h => absurd h hc, fun h => absurd h hc,
    fun h => absurd h hc⟩

theorem record_of_inside (h : c.run.step < c.list.length) : ∃ t ∈ c.list, c.record = some t.record := by
  refine ⟨c.list[c.run.step], List.getElem_mem h, ?_⟩
  rw [Channel.record, List.getElem?_eq_getElem h]
  rfl

theorem record_mem {r : StepRecord} (h : c.record = some r) : ∃ t ∈ c.list, t.record = r := by
  obtain ⟨t, hslot, hr⟩ := record_some_iff.mp h
  exact ⟨t, List.mem_of_getElem? hslot, hr⟩

theorem step_lt_of_record {r : StepRecord} (h : c.record = some r) : c.run.step < c.list.length := by
  obtain ⟨t, hslot, -⟩ := record_some_iff.mp h
  exact (List.getElem?_eq_some_iff.mp hslot).1

/-- The step and its progress are all that counts. -/
theorem StepGood.of_same (h : StepGood b segs c) (hprime : d.settings.prime = c.settings.prime)
    (hplayback : d.playback = .running → c.playback = .running) (hrecord : d.record = c.record)
    (hi : d.run.i = c.run.i) (hf : d.run.f = c.run.f) (hphase : d.run.phase = c.run.phase)
    (hconsumed : d.run.consumed = c.run.consumed) (hfifo : d.stream.fifo = c.stream.fifo) :
    StepGood b segs d where
  prime := hprime ▸ h.prime
  step := fun hd => by
    obtain ⟨t, -, hr⟩ := record_of_inside (h.step (hplayback hd))
    exact step_lt_of_record (hrecord.trans hr)
  frac := fun hd => hf ▸ h.frac (hplayback hd)
  pos := fun hd r id g hr => by
    rw [hi]
    exact h.pos (hplayback hd) r id g (hrecord ▸ hr)
  fresh := fun hd => by
    rw [hphase, hconsumed]
    exact h.fresh (hplayback hd)
  played := fun hd r hr => by
    rw [hphase, hconsumed, hfifo]
    exact h.played (hplayback hd) r (hrecord ▸ hr)

theorem stepGood_toIdle (h : StepGood b segs c) : StepGood b segs c.toIdle :=
  stepGood_of_not_running h.prime (fun hrun => nomatch hrun)

/-- Between two boundaries the buffer may change at will. -/
theorem StepGood.setStream (h : StepGood false segs c) (x : StreamBuffer) :
    StepGood false segs { c with stream := x } :=
  ⟨h.prime, h.step, h.frac, h.pos, h.fresh, fun hc r hr hsrc hp =>
    .inl ((h.played hc r hr hsrc hp).resolve_right fun hb => nomatch hb.1)⟩

theorem record_set {i : Nat} {t u : Slot} (hslot : c.list[i]? = some t) (hu : u.record = t.record) :
    ({ c with list := c.list.set i u } : Channel).record = c.record := by
  simp only [Channel.record, ← List.getElem?_map, map_record_set hslot hu]

theorem stepGood_afterStepEnd (h : StepGood b segs c) {t : Slot} (hslot : c.list[c.run.step]? = some t) :
    StepGood b segs (afterStepEnd t c) := by
  have hrecord : ({ c with list := c.list.set c.run.step { t with loops := loopsAfter t } } : Channel).record =
    c.record := record_set hslot rfl
  unfold afterStepEnd
  dsimp only
  split
  · exact h.of_same rfl id hrecord rfl rfl rfl rfl rfl
  · exact stepGood_of_not_running h.prime (fun hrun => nomatch hrun)

/-- A step entered: at position 0 with nothing consumed, and no stream step plays yet (R49, R50). -/
theorem stepGood_enterChannel (hprime : 1 ≤ c.settings.prime) (hplay : ∀ g ∈ segs, 16 ≤ g.play) {idx : Nat} {t : Slot}
    (hslot : c.list[idx]? = some t) : StepGood b segs (enterChannel idx t.record c) := by
  have hrecord : (enterChannel idx t.record c).record = some t.record :=
    record_some_iff.mpr ⟨t, hslot, rfl⟩
  refine ⟨hprime, fun _ => step_lt_of_record hrecord, fun _ => Nat.zero_lt_succ _, fun _ r id g _ _ hg => ?_,
    fun _ _ => rfl, fun _ r hr hsrc hphase => ?_⟩
  · exact Nat.lt_of_lt_of_le (Nat.zero_lt_succ _) (hplay g (findSeg_some hg).1)
  · obtain rfl : t.record = r := Option.some.inj (hrecord.symm.trans hr)
    have hstream : playPhase t.record = .priming := by simp only [playPhase, hsrc]
    simp only [enterChannel, hstream] at hphase
    split at hphase <;> cases hphase

/-! ### The stages of a boundary -/

theorem rate_le {r : StepRecord} (h : r.inRange = true) : r.rate ≤ 262144 := by
  simp only [StepRecord.inRange, Bool.and_eq_true, decide_eq_true_eq] at h
  obtain ⟨⟨⟨⟨⟨⟨⟨⟨⟨⟨⟨-, hrate⟩, -⟩, -⟩, -⟩, -⟩, -⟩, -⟩, -⟩, -⟩, -⟩, -⟩ := h
  exact hrate

/-- A stream step in range has a length. -/
theorem length_pos {r : StepRecord} (h : r.inRange = true) (hsrc : r.source = .stream) :
    1 ≤ r.length.getD 0 := by
  simp only [StepRecord.inRange, Bool.and_eq_true] at h
  obtain ⟨⟨⟨⟨⟨⟨⟨⟨⟨⟨⟨⟨hsource, -⟩, -⟩, -⟩, -⟩, -⟩, -⟩, -⟩, -⟩, -⟩, -⟩, -⟩, -⟩ := h
  simp only [sourceOk, hsrc] at hsource
  cases hlen : r.length with
  | none => simp [hlen] at hsource
  | some k =>
    simp only [hlen, Bool.and_eq_true, decide_eq_true_eq] at hsource
    exact hsource.1.1.1.1

theorem ListOk.record_inRange {r : StepRecord} (h : ListOk c) (hr : c.record = some r) : r.inRange = true := by
  obtain ⟨t, ht, rfl⟩ := record_mem hr
  exact (h.2 t ht).1

theorem advancePos_snd_lt (i f r : Nat) : (advancePos i f r).2 < 65536 := Nat.mod_lt _ (by decide)

/-- One advance runs less than 16 positions past the play length. -/
theorem advancePos_sub_lt {i f r p : Nat} (hi : i < p) (hf : f < 65536) (hr : r ≤ 262144) (hp : 16 ≤ p) :
    (advancePos i f r).1 - p < p := by
  simp only [advancePos]
  omega

section Stages

variable {n : Ch} {s : State} {es : List Emission} {m : SegMem}

theorem SettleOutcome.stepGood (hplay : ∀ g ∈ s.mem.segs, 16 ≤ g.play) (h : SettleOutcome n s c es)
    (hlist : ListOk (s.ch n)) (hs : StepGood b s.mem.segs (s.ch n)) : StepGood b s.mem.segs c := by
  cases h with
  | kept => exact hs
  | playsOn t g howes hslot hg =>
    have hrecord : (s.ch n).record = some t.record := record_some_iff.mpr ⟨t, hslot, rfl⟩
    refine ⟨hs.prime, hs.step, fun _ => advancePos_snd_lt (s.ch n).run.i (s.ch n).run.f t.record.rate,
      fun hc r id k hr hsrc hk => ?_, hs.fresh, hs.played⟩
    obtain rfl : t.record = r := Option.some.inj (hrecord.symm.trans hr)
    rw [currentSegment_memory hrecord hsrc] at hg
    obtain rfl : g = k := Option.some.inj (hg.symm.trans hk)
    exact advancePos_sub_lt (hs.pos hc _ id g hrecord hsrc hg) (hs.frac hc) (rate_le (hlist.record_inRange hrecord))
      (hplay g (findSeg_some hg).1)
  | repeatEnd t g _ hslot =>
    exact stepGood_afterStepEnd (c := repeatCounted t.record (s.ch n))
      (hs.of_same rfl id rfl rfl rfl rfl rfl rfl) hslot
  | streamEnd t _ hslot => exact stepGood_afterStepEnd hs hslot

theorem EndOutcome.stepGood {deferred : List Ch} {why : Owed} (hplay : ∀ g ∈ s.mem.segs, 16 ≤ g.play)
    (h : EndOutcome deferred n why (s.setCh n d) c es) (hlist : ListOk d) (hs : StepGood b s.mem.segs d) :
    StepGood b s.mem.segs c := by
  have howing : StepGood b s.mem.segs (owing why d) := hs.of_same rfl id rfl rfl rfl rfl rfl rfl
  cases h with
  | owed => rwa [ch_setCh_same]
  | resolved _ _ _ hsettle =>
    rw [ch_setCh_same] at hsettle
    exact hsettle.stepGood (b := b) (s := (s.setCh n d).setCh n (owing why d)) hplay
      (by rw [ch_setCh_same]; exact hlist.of_list rfl) (by rwa [ch_setCh_same])

theorem CueTaken.stepGood {cue : Nat} (hplay : ∀ g ∈ segs, 16 ≤ g.play) (h : CueTaken cue n c d es)
    (hc : StepGood b segs c) : StepGood b segs d := by
  cases h with
  | ignored => exact hc
  | cleared => exact hc.of_same rfl id rfl rfl rfl rfl rfl rfl
  | stopped => exact stepGood_toIdle hc
  | started t _ hslot => exact stepGood_enterChannel hc.prime hplay hslot
  | waitEnded r hrun hphase hrec =>
    have hzero : c.run.consumed = 0 := hc.fresh hrun (by rw [hphase]; decide)
    refine ⟨hc.prime, hc.step, hc.frac, hc.pos, fun _ _ => hzero, fun _ k hk hsrc hplaying => ?_⟩
    obtain rfl : r = k := Option.some.inj (hrec.symm.trans hk)
    simp only [endWait, playPhase, hsrc] at hplaying
    cases hplaying
  | leaves => exact hc.of_same rfl id rfl rfl rfl rfl rfl rfl
  | kept => exact hc.of_same rfl id rfl rfl rfl rfl rfl rfl

/-- A stream step that is primed has a sample for its first boundary (R51). -/
theorem stepGood_primedChannel (hlist : ListOk c) (hc : StepGood true segs c) :
    StepGood true segs (primedChannel c) := by
  rw [primedChannel]
  split
  · next hprimed =>
    obtain ⟨hrun, hphase, r, hr, hlevel⟩ := (primed_iff c).mp hprimed
    have hzero : c.run.consumed = 0 := hc.fresh hrun (by rw [hphase]; decide)
    refine ⟨hc.prime, hc.step, hc.frac, hc.pos, fun _ hne => absurd rfl hne, fun _ k hk hsrc _ => .inr ⟨rfl, ?_⟩⟩
    obtain rfl : r = k := Option.some.inj (hr.symm.trans hk)
    have hlen := length_pos (hlist.record_inRange hr) hsrc
    have hprime := hc.prime
    refine List.ne_nil_of_length_pos ?_
    change 0 < c.stream.fifo.length
    omega
  · exact hc

theorem Playing.source_unique {t : Slot} (h : Playing c t) {r : StepRecord} (hr : c.record = some r) :
    t.record = r := Option.some.inj ((playing_record h).symm.trans hr)

theorem CodeOutcome.stepGood {deferred : List Ch} (hplay : ∀ g ∈ s.mem.segs, 16 ≤ g.play)
    (h : CodeOutcome deferred n s c es) (hlist : ListOk (s.ch n)) (hs : StepGood true s.mem.segs (s.ch n)) :
    StepGood false s.mem.segs c := by
  have hmemory : ∀ {t : Slot} {id : Nat}, Playing (s.ch n) t → t.record.source = .memory id →
      StepGood false s.mem.segs (s.ch n) := fun hp hsrc => by
    refine { hs with played := fun _ r hr hstream _ => ?_ }
    obtain rfl := hp.source_unique hr
    rw [hsrc] at hstream
    cases hstream
  cases h with
  | unplayed hnone =>
    refine StepGood.of_same (c := s.ch n) { hs with played := fun hrun r hr hsrc hphase => ?_ } rfl id rfl rfl rfl rfl
      rfl rfl
    obtain ⟨t, hslot, rfl⟩ := record_some_iff.mp hr
    obtain ⟨id, hid, -⟩ := hnone t ⟨hrun, hphase, hslot⟩
    rw [hsrc] at hid
    cases hid
  | memoryOn t id g hp hsrc hg hi =>
    have hgood := hmemory hp hsrc
    refine ⟨hs.prime, hs.step, fun _ => advancePos_snd_lt (s.ch n).run.i (s.ch n).run.f t.record.rate,
      fun _ r k x hr hk hx => ?_, hs.fresh, hgood.played⟩
    obtain rfl := hp.source_unique hr
    rw [hsrc] at hk
    cases hk
    obtain rfl : g = x := Option.some.inj (hg.symm.trans hx)
    exact hi
  | memoryEnd t id g _ _ hp hsrc _ _ hend =>
    exact hend.stepGood hplay (hlist.of_list rfl)
      ((hmemory hp hsrc).of_same rfl (fun h => h) rfl rfl rfl rfl rfl rfl)
  | streamOn t x rest hp =>
    exact ⟨hs.prime, hs.step, hs.frac, hs.pos, fun _ hne => absurd hp.2.1 hne, fun _ _ _ _ _ => .inl (Nat.succ_pos _)⟩
  | streamEnd t x rest _ _ hp _ _ _ hend =>
    exact hend.stepGood hplay (hlist.of_list rfl) ⟨hs.prime, hs.step, hs.frac, hs.pos,
      fun _ hne => absurd hp.2.1 hne, fun _ _ _ _ _ => .inl (Nat.succ_pos _)⟩
  | underrun t d _ hp hsrc hempty hend =>
    have hgood : StepGood false s.mem.segs (s.ch n) := by
      refine { hs with played := fun hrun r hr hstream hphase => .inl ?_ }
      exact (hs.played hrun r hr hstream hphase).resolve_right fun hheld => hheld.2 hempty
    have hd := hend.stepGood (b := false) hplay (hlist.of_list rfl)
      (hgood.of_same rfl id rfl rfl rfl rfl rfl rfl)
    exact hd.setStream _

end Stages

/-- A boundary keeps the lists in range and every step standing and playing as it must. -/
theorem keptByStages_step (n : Ch) {m : SegMem} (hplay : ∀ g ∈ m.segs, 16 ≤ g.play) :
    KeptByStages n m fun b c => ListOk c ∧ StepGood b m.segs c where
  settle := fun b s c es hm hout h =>
    ⟨hout.listOk h.1, by subst hm; exact hout.stepGood hplay h.1 h.2⟩
  entry := by
    intro now c c' es hout h
    refine ⟨(keptByChannels_list.stages n m).entry now c c' es hout h.1, ?_⟩
    generalize entryOf now c = o at hout
    cases hout with
    | kept => exact h.2
    | entered idx t hslot => exact stepGood_enterChannel h.2.prime hplay hslot
  opens := fun c h => ⟨h.1, h.2.mono⟩
  cue := fun cue c c' es hout h =>
    ⟨(keptByChannels_list.stages n m).cue cue c c' es hout h.1, hout.stepGood hplay h.2⟩
  priming := fun c h =>
    ⟨(keptByChannels_list.stages n m).priming c h.1, stepGood_primedChannel h.1 h.2⟩
  markers := fun c h => ⟨h.1.of_list rfl, h.2.of_same rfl id rfl rfl rfl rfl rfl rfl⟩
  codes := fun deferred s c es hm hout h =>
    ⟨hout.listOk h.1, by subst hm; exact hout.stepGood hplay h.1 h.2⟩

/-! ### Messages: the channel's part -/

theorem ChannelMessage.stepGood {s : State} {n : Ch} (h : ChannelMessage s n c)
    (hs : StepGood false segs (s.ch n)) : StepGood false segs c := by
  have hidle : (s.ch n).active = false → (s.ch n).playback ≠ .running := fun hinactive hrun => by
    obtain h | h := (inactive_iff _).mp hinactive <;> rw [hrun] at h <;> cases h
  cases h with
  | kept => exact hs
  | configured ht hinactive =>
    obtain ⟨-, -, -, -, hprime⟩ := settings_good ht
    exact stepGood_of_not_running hprime (hidle hinactive)
  | masked => exact hs.of_same rfl id rfl rfl rfl rfl rfl rfl
  | statusRead => exact hs.of_same rfl id rfl rfl rfl rfl rfl rfl
  | cleared hinactive => exact stepGood_of_not_running hs.prime (hidle hinactive)
  | @appended r hr hroom =>
    have hrecord : (s.ch n).playback = .running →
        ({ s.ch n with list := (s.ch n).list ++ [newSlot r] } : Channel).record = (s.ch n).record := fun hrun => by
      simp only [Channel.record, List.getElem?_append_left (hs.step hrun)]
    refine ⟨hs.prime, fun hrun => ?_, hs.frac, fun hrun k id g hk => ?_, hs.fresh, fun hrun k hk => ?_⟩
    · exact Nat.lt_of_lt_of_le (hs.step hrun) (by simp)
    · exact hs.pos hrun k id g (hrecord hrun ▸ hk)
    · exact hs.played hrun k (hrecord hrun ▸ hk)
  | replaced hr hinactive => exact stepGood_of_not_running hs.prime (hidle hinactive)
  | started => exact stepGood_of_not_running hs.prime (fun hrun => nomatch hrun)
  | stopped flush =>
    cases flush with
    | true => exact (stepGood_toIdle hs).setStream {}
    | false => exact stepGood_toIdle hs
  | streamed => exact hs.setStream _
  | flushed => exact hs.setStream {}

end Channel

/-! ### Messages: the segments' part -/

/-- Every record of `segs'` is one of `segs` with its id and play length. -/
def PlaysFrom (segs segs' : List Segment) : Prop := ∀ g' ∈ segs', ∃ g ∈ segs, g.id = g'.id ∧ g.play = g'.play

theorem playsFrom_refl (segs : List Segment) : PlaysFrom segs segs := fun g hg => ⟨g, hg, rfl, rfl⟩

theorem playsFrom_map (segs : List Segment) {f : Segment → Segment} (hf : ∀ g, (f g).id = g.id ∧ (f g).play = g.play) :
    PlaysFrom segs (segs.map f) := fun k hk => by
  obtain ⟨g, hg, rfl⟩ := List.mem_map.mp hk
  exact ⟨g, hg, (hf g).1.symm, (hf g).2.symm⟩

theorem playsFrom_update (segs : List Segment) (id : Nat) {f : Segment → Segment}
    (hf : ∀ g, (f g).id = g.id ∧ (f g).play = g.play) : PlaysFrom segs (updateSeg segs id f) :=
  playsFrom_map segs fun g => by
    split
    · exact hf g
    · exact ⟨rfl, rfl⟩

theorem PlaysFrom.trans {a b c : List Segment} (h : PlaysFrom a b) (k : PlaysFrom b c) : PlaysFrom a c := fun x hx => by
  obtain ⟨y, hy, hid, hplay⟩ := k x hx
  obtain ⟨z, hz, hzid, hzplay⟩ := h y hy
  exact ⟨z, hz, hzid.trans hid, hzplay.trans hplay⟩

theorem playsFrom_refIn (m : SegMem) (r : StepRecord) : PlaysFrom m.segs (refIn m r).segs := by
  unfold refIn
  split
  · exact playsFrom_update _ _ fun _ => ⟨rfl, rfl⟩
  · exact playsFrom_refl _

/-- Only SEG-DEFINE brings a record that was not there. -/
theorem MessageEffect.playsFrom {k : Kind} {s t : State} (he : MessageEffect s k t) (hk : k ≠ .devReset)
    (hdefine : k ≠ .segDefine) : PlaysFrom s.mem.segs t.mem.segs := by
  cases he with
  | restarted => exact absurd rfl hk
  | defaulted => exact absurd rfl hk
  | defined => exact absurd rfl hdefine
  | sealed => exact playsFrom_update _ _ fun _ => ⟨rfl, rfl⟩
  | deleted => exact fun g hg => ⟨g, (mem_removeSeg.mp hg).1, rfl, rfl⟩
  | clearMoved => exact playsFrom_update _ _ fun _ => ⟨rfl, rfl⟩
  | listCleared n =>
    rw [foldl_refOut]
    exact playsFrom_map _ fun _ => ⟨rfl, rfl⟩
  | appended n => exact playsFrom_refIn _ _
  | replaced n =>
    refine PlaysFrom.trans ?_ (playsFrom_refIn _ _)
    rw [refOut_eq]
    exact playsFrom_map _ fun _ => ⟨rfl, rfl⟩
  | started c hns =>
    rw [reportLate_mem, eachCh_setCh hns (fun d => d.arm c (startBoundary c s.dev.counter))]
    exact playsFrom_refl _
  | stopped flush hns =>
    rw [eachCh_setCh hns]
    exact playsFrom_refl _
  | cueSent =>
    rw [pushCue_mem]
    exact playsFrom_refl _
  | _ => exact playsFrom_refl _

/-- The segments a step can name keep their play length. -/
theorem StepGood.of_playsFrom {b : Bool} {segs segs' : List Segment} {c : Channel} (h : StepGood b segs c)
    (hids : IdsOk segs) (hfrom : PlaysFrom segs segs') : StepGood b segs' c := by
  refine { h with pos := fun hrun r id g' hr hsrc hg' => ?_ }
  obtain ⟨hmem, rfl⟩ := findSeg_some hg'
  obtain ⟨g, hg, hid, hplay⟩ := hfrom g' hmem
  rw [← hplay]
  exact h.pos hrun r _ g hr hsrc (hid ▸ findSeg_of_mem hids hg)

/-- A step of a list names a segment that is defined. -/
theorem named_defined {s : State} (hrefs : RefsOk s) {n : Ch} {r : StepRecord} {id : Nat}
    (hr : (s.ch n).record = some r) (hsrc : r.source = .memory id) : ∃ g ∈ s.mem.segs, g.id = id := by
  refine (refsOk_iff.mp hrefs).named id ?_
  obtain ⟨t, ht, rfl⟩ := record_mem hr
  have hcount : 0 < (s.ch n).list.countP (namesSeg id) :=
    List.countP_pos_iff.mpr ⟨t, ht, by simp [namesSeg, hsrc]⟩
  rw [stepsNaming_eq]
  cases n <;> omega

/-- SEG-DEFINE changes no segment that a step names. -/
theorem stepGood_define {s t : State} (hrefs : RefsOk s) (he : MessageEffect s .segDefine t) (n : Ch)
    (hs : StepGood false s.mem.segs (s.ch n)) : StepGood false t.mem.segs (t.ch n) := by
  cases he with
  | same => exact hs
  | defined hid hl hnew halloc =>
    have hids := (refsOk_iff.mp hrefs).ids
    refine { hs with pos := fun hrun r id g' hr hsrc hg' => ?_ }
    obtain ⟨g, hg, rfl⟩ := named_defined hrefs hr hsrc
    obtain ⟨hmem, hgid⟩ := findSeg_some hg'
    obtain heq | hold := mem_insertSeg.mp hmem
    · rw [heq] at hgid
      exact absurd hgid.symm (findSeg_none.mp hnew g hg)
    · rw [idsOk_unique hids hold hg hgid]
      exact hs.pos hrun r _ g hr hsrc (findSeg_of_mem hids hg)

/-! ### Every step -/

/-- What the positions rest on, and the positions. -/
structure Positioned (s : State) : Prop where
  table : MemGood s.mem
  refs : RefsOk s
  lists : ListsOk s
  steps : ∀ n, StepGood s.boundaryOpen s.mem.segs (s.ch n)

theorem Positioned.play {s : State} (h : Positioned s) : ∀ g ∈ s.mem.segs, 16 ≤ g.play := fun g hg => by
  obtain ⟨-, -, -, hplay, -⟩ := h.table.records g hg
  rw [hplay]
  exact Nat.le_max_right _ _

theorem steps_default {p : Pins} {keeps : Bool} {u : State} (hu : AtDefaults p keeps u) (r : Int) (n : Ch) :
    StepGood (evaluateTemp r u).boundaryOpen (evaluateTemp r u).mem.segs ((evaluateTemp r u).ch n) := by
  obtain ⟨out, hch⟩ := hu.chans n
  rw [evaluateTemp_ch, hch]
  exact stepGood_of_not_running (show 1 ≤ 1024 by decide) (fun hrun => nomatch hrun)

theorem playsFrom_row {c : Instr} (hc : carriesMessage c = false) (s : State) :
    PlaysFrom s.mem.segs (actionOf c s).mem.segs := by
  by_cases hclear : c = .segClearDone
  · subst hclear
    have hout : ClearOutcome s (actionOf .segClearDone s) := clearOutcome s
    generalize actionOf .segClearDone s = t at hout
    cases hout with
    | same => exact playsFrom_refl _
    | done => exact playsFrom_update _ _ fun _ => ⟨rfl, rfl⟩
  · rw [actionOf_mem hc hclear]
    exact playsFrom_refl _

theorem keptByParts_positions : KeptByParts Positioned where
  pending := fun _ _ h => ⟨h.table, h.refs, h.lists, h.steps⟩
  link := fun _ _ h => ⟨h.table, h.refs, h.lists, h.steps⟩
  moment := fun s t hr ht h => by
    have hmem : t.mem = s.mem := ht.sameOutside.1
    have hsteps := fun n => (keptByStages_step n h.play).moment rfl ht ⟨h.lists n, h.steps n⟩
    exact ⟨keptByParts_table.moment s t hr ht h.table, keptByParts_refs.moment s t hr ht h.refs,
      fun n => (hsteps n).1, fun n => hmem ▸ (hsteps n).2⟩
  effect := fun k s t hr ho hlock hk he h => by
    refine ⟨keptByParts_table.effect k s t hr ho hlock hk he h.table,
      keptByParts_refs.effect k s t hr ho hlock hk he h.refs,
      (keptByParts_of_channels keptByChannels_list).effect k s t hr ho hlock hk he h.lists, fun n => ?_⟩
    have hopen : t.boundaryOpen = false := (he.touches hr ho).opened.trans ho
    have hs : StepGood false s.mem.segs (s.ch n) := ho ▸ h.steps n
    rw [hopen]
    by_cases hdefine : k = .segDefine
    · subst hdefine
      exact stepGood_define h.refs he n hs
    · exact ((he.channel hk n).stepGood hs).of_playsFrom h.table.ids (he.playsFrom hk hdefine)
  restart := fun s hr ho h => by
    refine ⟨keptByParts_table.restart s hr ho h.table, keptByParts_refs.restart s hr ho h.refs,
      (keptByParts_of_channels keptByChannels_list).restart s hr ho h.lists, fun n => ?_⟩
    have hch : (devResetPlayback s).state.ch n = (s.ch n).restart := get_mapCh Channel.restart s.chans n
    rw [hch]
    exact stepGood_of_not_running (h.steps n).prime (fun hrun => nomatch hrun)
  row := fun c s hc hr ho h => by
    refine ⟨keptByParts_table.row c s hc hr ho h.table, keptByParts_refs.row c s hc hr ho h.refs,
      (keptByParts_of_channels keptByChannels_list).row c s hc hr ho h.lists, fun n => ?_⟩
    have hopen : (actionOf c s).boundaryOpen = s.boundaryOpen := (touches_actionOf hc s).opened
    rw [hopen]
    refine StepGood.of_playsFrom ?_ h.table.ids (playsFrom_row hc s)
    obtain heq | heq := row_ch hc s n <;> rw [heq]
    · exact h.steps n
    · exact stepGood_toIdle (h.steps n)
  assert := fun s hr ho h => by
    refine ⟨keptByParts_table.assert s hr ho h.table, keptByParts_refs.assert s hr ho h.refs,
      (keptByParts_of_channels keptByChannels_list).assert s hr ho h.lists, fun n => ?_⟩
    have hch : (pinResetAssert s).ch n = holdPins (s.ch n) := get_mapCh holdPins s.chans n
    rw [hch]
    exact ((ho ▸ h.steps n : StepGood false s.mem.segs (s.ch n)).mono).of_same rfl id rfl rfl rfl rfl rfl rfl
  default := fun reading s hr ho h =>
    ⟨keptByParts_table.default reading s hr ho h.table, keptByParts_refs.default reading s hr ho h.refs,
      (keptByParts_of_channels keptByChannels_list).default reading s hr ho h.lists,
      steps_default (atDefaults_freshForAll reading s) reading⟩
  fresh := fun p s h =>
    ⟨keptByParts_table.fresh p s h.table, keptByParts_refs.fresh p s h.refs,
      (keptByParts_of_channels keptByChannels_list).fresh p s h.lists,
      steps_default (atDefaults_defaults p s) p.reading⟩

theorem positioned_iff {s : State} :
    TableOk s ∧ RefsOk s ∧ ListsOk s ∧ PositionOk s ∧ PlayedOk s ↔ Positioned s := by
  rw [tableOk_iff, stepsGood_iff]
  exact ⟨fun ⟨ht, hr, hl, hs⟩ => ⟨ht, hr, hl, hs⟩, fun ⟨ht, hr, hl, hs⟩ => ⟨ht, hr, hl, hs⟩⟩

end Sys2Proof.Machine

namespace Sys2Proof.Proofs

open Sys2Proof.Machine

/-- Settles O57: stage by stage of a boundary; a message moves no step, and changes no segment a step names. -/
theorem positionsKept : Obligations.PositionsKept := fun _ t h hstep =>
  positioned_iff.mpr (keptByStep_of_parts keptByParts_positions _ t (positioned_iff.mp h) hstep)

end Sys2Proof.Proofs
end

section
/-! PROOF. The part's own frame on the wires: one transition of the sender and the receiver per move (R103 to R110,
R113). -/

namespace Sys2Proof.Machine

/-! ### What a move of the line leaves -/

section Follow

variable (b c : CueController)

theorem enterPhase_setReceiver (p : SendPhase) (r : Receiver) :
    enterPhase p { c with receiver := r } = { enterPhase p c with receiver := r } := by
  obtain ⟨q, _ | f⟩ := c
  · rfl
  · cases p <;> rfl

/-- What the sender does rests on its phase, the wires and the queue, not on the receiver. -/
theorem obey_setReceiver (r : Receiver) : obey { c with receiver := r } = { obey c with receiver := r } := by
  obtain hf | ⟨⟨x, p⟩, hf⟩ := Option.eq_none_or_eq_some c.inFlight
  · rw [obey_none hf]
    exact obey_none hf
  · rw [obey_eq hf]
    refine (obey_eq (c := { c with receiver := r }) hf).trans ?_
    change (sensed c.ck.low c.dt.low (drivesBit c) p).elim _ _ = _
    cases sensed c.ck.low c.dt.low (drivesBit c) p with
    | none => rfl
    | some q => exact enterPhase_setReceiver c q r

@[simp] theorem follow_inFlight : (follow b c).inFlight = (obey c).inFlight := by
  simp only [follow, readTimers, obey_setReceiver]

@[simp] theorem follow_ck : (follow b c).ck = (obey c).ck := by
  simp only [follow, readTimers, obey_setReceiver]

@[simp] theorem follow_dt : (follow b c).dt = (obey c).dt := by
  simp only [follow, readTimers, obey_setReceiver]

@[simp] theorem follow_receiver : (follow b c).receiver =
    hear (!b.ck.low) (!b.dt.low) (!c.ck.low) (!c.dt.low) c.receiver := by
  simp only [follow, readTimers, obey_setReceiver]

end Follow

theorem drivesBit_congr {c d : CueController} (h : d.sendQ = c.sendQ) : drivesBit d = drivesBit c := by
  funext j
  simp only [drivesBit, headBits, h]

theorem headBits_congr {c d : CueController} (h : d.sendQ = c.sendQ) : headBits d = headBits c := by
  simp only [headBits, h]

/-- What the part drives CUECK low for: the low halves (R107). -/
def ckOf : SendPhase → Bool
  | .low _ => true
  | _ => false

/-- What the part drives CUEDT low for: the start, and the bits `drives` names through their two halves (R107,
R108). -/
def dtOf (drives : Nat → Bool) : SendPhase → Bool
  | .startHold => true
  | .low j | .wait j | .high j => drives j
  | .stopTest | .made | .lost => false

/-- The part's frame, with half-period `x` and CUEDT driven low for the bits `dr`, stands at a phase, the receiver
and the wires as given. -/
structure Stands (c : CueController) (x : HalfPeriod) (dr : Nat → Bool) (p : SendPhase) (r : Receiver)
    (ck dt : Wire) : Prop where
  inFlight : c.inFlight = some ⟨x, p⟩
  receiver : c.receiver = r
  ck : c.ck = ck
  dt : c.dt = dt
  drives : drivesBit c = dr

section Stands

variable {b c : CueController} {x : HalfPeriod} {dr : Nat → Bool} {p q : SendPhase} {r r' : Receiver} {ck dt : Wire}

theorem Stands.enter (h : Stands c x dr p r ck dt) (q : SendPhase) :
    Stands (enterPhase q c) x dr q r ⟨ckOf q, ck.others⟩ ⟨dtOf dr q, dt.others⟩ := by
  obtain ⟨hf, hr, hck, hdt, hdr⟩ := h
  refine ⟨?_, ?_, ?_, ?_, (drivesBit_congr (enterPhase_sendQ c q)).trans hdr⟩ <;>
    cases q <;> simp [enterPhase, hf, driveWires, hr, hck, hdt, hdr, ckOf, dtOf]

theorem Stands.holdOver (h : Stands c x dr p r ck dt) (hq : timed p = some q) :
    Stands (holdOver c) x dr q r ⟨ckOf q, ck.others⟩ ⟨dtOf dr q, dt.others⟩ := by
  rw [holdOver_eq h.inFlight, hq]
  exact h.enter q

theorem Stands.holdOver_untimed (h : Stands c x dr p r ck dt) (hq : timed p = none) :
    Stands (Machine.holdOver c) x dr p r ck dt := by
  rw [holdOver_eq h.inFlight, hq]
  exact h

theorem Stands.others_ck (h : Stands c x dr p r ck dt) (low : Bool) :
    Stands (setOthers .cueck low c) x dr p r ⟨ck.own, low⟩ dt :=
  ⟨h.inFlight, h.receiver, congrArg (fun w : Wire => (⟨w.own, low⟩ : Wire)) h.ck, h.dt, h.drives⟩

theorem Stands.others_dt (h : Stands c x dr p r ck dt) (low : Bool) :
    Stands (setOthers .cuedt low c) x dr p r ck ⟨dt.own, low⟩ :=
  ⟨h.inFlight, h.receiver, h.ck, congrArg (fun w : Wire => (⟨w.own, low⟩ : Wire)) h.dt, h.drives⟩

/-- The sender stays in its phase at the levels it reads. -/
theorem Stands.follow_stays (h : Stands c x dr p r ck dt) (hs : sensed ck.low dt.low dr p = none)
    (hr : hear (!b.ck.low) (!b.dt.low) (!ck.low) (!dt.low) r = r') : Stands (follow b c) x dr p r' ck dt := by
  have hobey : obey c = c := by
    rw [obey_eq h.inFlight, h.ck, h.dt, h.drives, hs]
    rfl
  refine ⟨?_, ?_, ?_, ?_, (drivesBit_congr (follow_sendQ c b)).trans h.drives⟩
  · rw [follow_inFlight, hobey, h.inFlight]
  · rw [follow_receiver, h.ck, h.dt, h.receiver, hr]
  · rw [follow_ck, hobey, h.ck]
  · rw [follow_dt, hobey, h.dt]

/-- The sender comes to another phase at the levels it reads. -/
theorem Stands.follow_turns (h : Stands c x dr p r ck dt) (hs : sensed ck.low dt.low dr p = some q)
    (hr : hear (!b.ck.low) (!b.dt.low) (!ck.low) (!dt.low) r = r') :
    Stands (follow b c) x dr q r' ⟨ckOf q, ck.others⟩ ⟨dtOf dr q, dt.others⟩ := by
  have hobey : obey c = enterPhase q c := by
    rw [obey_eq h.inFlight, h.ck, h.dt, h.drives, hs]
    rfl
  have henter := h.enter q
  refine ⟨?_, ?_, ?_, ?_, (drivesBit_congr (follow_sendQ c b)).trans h.drives⟩
  · rw [follow_inFlight, hobey, henter.inFlight]
  · rw [follow_receiver, h.ck, h.dt, h.receiver, hr]
  · rw [follow_ck, hobey, henter.ck]
  · rw [follow_dt, hobey, henter.dt]

end Stands

/-! ### One transition per move -/

/-- What a move does before the line is read. -/
def moved (m : LineMove) (c : CueController) : CueController :=
  match m with
  | .pull l => setOthers l true c
  | .release l => setOthers l false c
  | .holdEnds => holdOver c
  | .idleEnough => { c with idleEnough := true }

section Transitions

variable {c : CueController} {x : HalfPeriod} {dr : Nat → Bool} {j : Nat} {bits : List Bool}
  {started e k : Bool} {ck dt : Wire}

/-- A sender whose frame is neither made nor lost and whose receiver is inside it goes on. -/
theorem Stands.notDue {p : SendPhase} (h : Stands c x dr p (.inside bits started) ck dt) (hmade : p ≠ .made)
    (hlost : p ≠ .lost) : rowDue c = false := by
  simp [rowDue, h.inFlight, h.receiver, hmade, hlost]

theorem lineMove_follow {m : LineMove} (h : rowDue c = false) : lineMove m c = follow c (moved m c) := by
  unfold lineMove
  rw [h]
  cases m <;> rfl

theorem startHold_ends (h : Stands c x dr .startHold (.inside [] true) ⟨false, false⟩ ⟨true, e⟩) :
    Stands (lineMove .holdEnds c) x dr (.low 0) (.inside [] false) ⟨true, false⟩ ⟨dr 0, e⟩ := by
  rw [lineMove_follow (h.notDue nofun nofun)]
  refine (h.holdOver rfl).follow_stays rfl ?_
  simp [h.ck, hear, Wire.low, ckOf]

theorem startHold_pulled (h : Stands c x dr .startHold (.inside [] true) ⟨false, false⟩ ⟨true, e⟩) :
    Stands (lineMove (.pull .cueck) c) x dr (.low 0) (.inside [] false) ⟨true, true⟩ ⟨dr 0, e⟩ := by
  rw [lineMove_follow (h.notDue nofun nofun)]
  refine (h.others_ck true).follow_turns rfl ?_
  simp [h.ck, hear, Wire.low]

theorem low_ends_stretched (h : Stands c x dr (.low j) (.inside bits false) ⟨true, true⟩ ⟨dr j, e⟩) :
    Stands (lineMove .holdEnds c) x dr (.wait j) (.inside bits false) ⟨false, true⟩ ⟨dr j, e⟩ := by
  rw [lineMove_follow (h.notDue nofun nofun)]
  refine (h.holdOver rfl).follow_stays rfl ?_
  simp [h.ck, hear, Wire.low]

/-- The high half begins at the rise of CUECK, unless the bit is lost. -/
theorem wait_rises {b d : CueController} (h : Stands d x dr (.wait j) (.inside bits false) ⟨false, false⟩ ⟨dr j, e⟩)
    (hb : b.ck.low = true) :
    Stands (follow b d) x dr (if (!dr j && e) = true then .lost else .high j) (.inside bits false) ⟨false, false⟩
      ⟨dr j, e⟩ := by
  have hr : hear (!b.ck.low) (!b.dt.low) (!(⟨false, false⟩ : Wire).low) (!(⟨dr j, e⟩ : Wire).low)
      (.inside bits false) = .inside bits false := by simp [hb, hear]
  cases hlost : !dr j && e with
  | true =>
    obtain ⟨hj, rfl⟩ : dr j = false ∧ e = true := by simpa using hlost
    have hturn := h.follow_turns (q := .lost) (by simp [sensed, Wire.low, hj]) hr
    rwa [hj]
  | false =>
    refine h.follow_turns (q := .high j) ?_ hr
    have hlow : ((⟨dr j, e⟩ : Wire).low && !dr j) = false := by
      cases hj : dr j <;> simp_all [Wire.low]
    simp only [sensed, hlow]
    rfl

theorem low_ends_risen (h : Stands c x dr (.low j) (.inside bits false) ⟨true, false⟩ ⟨dr j, e⟩) :
    Stands (lineMove .holdEnds c) x dr (if (!dr j && e) = true then .lost else .high j) (.inside bits false)
      ⟨false, false⟩ ⟨dr j, e⟩ := by
  rw [lineMove_follow (h.notDue nofun nofun)]
  exact wait_rises (h.holdOver rfl) (by simp [h.ck, Wire.low])

theorem wait_ends (h : Stands c x dr (.wait j) (.inside bits false) ⟨false, true⟩ ⟨dr j, e⟩) :
    Stands (lineMove .holdEnds c) x dr (.wait j) (.inside bits false) ⟨false, true⟩ ⟨dr j, e⟩ := by
  rw [lineMove_follow (h.notDue nofun nofun)]
  refine (h.holdOver_untimed rfl).follow_stays rfl ?_
  simp [h.ck, hear, Wire.low]

theorem wait_released (h : Stands c x dr (.wait j) (.inside bits false) ⟨false, true⟩ ⟨dr j, e⟩) :
    Stands (lineMove (.release .cueck) c) x dr (if (!dr j && e) = true then .lost else .high j) (.inside bits false)
      ⟨false, false⟩ ⟨dr j, e⟩ := by
  rw [lineMove_follow (h.notDue nofun nofun)]
  exact wait_rises (h.others_ck false) (by simp [h.ck, Wire.low])

/-- In a high half the wire reads what is sent, but for a 1 bit that another part pulls low. -/
theorem high_reads (hlost : (!dr j && e) = false) : (⟨dr j, e⟩ : Wire).low = dr j := by
  cases hj : dr j <;> simp_all [Wire.low]

theorem high_ends (h : Stands c x dr (.high j) (.inside bits false) ⟨false, false⟩ ⟨dr j, e⟩) (hj : j < 7)
    (hlen : bits.length = j) (hlost : (!dr j && e) = false) :
    Stands (lineMove .holdEnds c) x dr (.low (j + 1)) (.inside (bits ++ [!dr j]) false) ⟨true, false⟩
      ⟨dr (j + 1), e⟩ := by
  rw [lineMove_follow (h.notDue nofun nofun)]
  have hread : c.dt.low = dr j := by rw [h.dt, high_reads hlost]
  refine (h.holdOver (q := .low (j + 1)) (by simp [timed, hj])).follow_stays rfl ?_
  rw [h.ck, hread]
  simp [hear, Wire.low, ckOf, show ¬7 ≤ bits.length by omega]

theorem high_pulled (h : Stands c x dr (.high j) (.inside bits false) ⟨false, false⟩ ⟨dr j, e⟩) (hj : j < 7)
    (hlen : bits.length = j) (hlost : (!dr j && e) = false) :
    Stands (lineMove (.pull .cueck) c) x dr (.low (j + 1)) (.inside (bits ++ [!dr j]) false) ⟨true, true⟩
      ⟨dr (j + 1), e⟩ := by
  rw [lineMove_follow (h.notDue nofun nofun)]
  have hread : c.dt.low = dr j := by rw [h.dt, high_reads hlost]
  refine (h.others_ck true).follow_turns (q := .low (j + 1)) (by simp [sensed, Wire.low, hj]) ?_
  rw [h.ck, hread]
  simp [hear, Wire.low, show ¬7 ≤ bits.length by omega]

theorem high_dtPulled (h : Stands c x dr (.high j) (.inside bits false) ⟨false, false⟩ ⟨dr j, e⟩)
    (hj : dr j = false) (he : e = false) :
    Stands (lineMove (.pull .cuedt) c) x dr .lost .reopened ⟨false, false⟩ ⟨false, true⟩ := by
  rw [lineMove_follow (h.notDue nofun nofun)]
  refine (h.others_dt true).follow_turns (q := .lost) (by simp [sensed, Wire.low, hj]) ?_
  simp [h.ck, h.dt, hj, he, hear, Wire.low]

theorem stop_ends (h : Stands c x dr (.high 7) (.inside bits false) ⟨false, false⟩ ⟨true, e⟩) :
    Stands (lineMove .holdEnds c) x dr (if e = true then .stopTest else .made)
      (if e = true then .inside bits false else .ended bits) ⟨false, false⟩ ⟨false, e⟩ := by
  rw [lineMove_follow (h.notDue nofun nofun)]
  have hd := h.holdOver (q := .stopTest) rfl
  cases e with
  | true => exact hd.follow_stays rfl (by simp [h.ck, h.dt, hear, Wire.low, ckOf])
  | false => exact hd.follow_turns rfl (by simp [h.ck, h.dt, hear, Wire.low, ckOf, dtOf])

theorem stop_pulled (h : Stands c x dr (.high 7) (.inside bits false) ⟨false, false⟩ ⟨true, e⟩)
    (hlen : bits.length = 7) :
    Stands (lineMove (.pull .cueck) c) x dr .lost (.ended (bits ++ [false])) ⟨false, true⟩ ⟨false, e⟩ := by
  rw [lineMove_follow (h.notDue nofun nofun)]
  refine (h.others_ck true).follow_turns (q := .lost) rfl ?_
  simp [h.ck, h.dt, hear, Wire.low, hlen]

theorem stopTest_ends (h : Stands c x dr .stopTest (.inside bits false) ⟨false, false⟩ ⟨false, true⟩) :
    Stands (lineMove .holdEnds c) x dr .lost (.inside bits false) ⟨false, false⟩ ⟨false, true⟩ := by
  rw [lineMove_follow (h.notDue nofun nofun)]
  refine (h.holdOver (q := .lost) rfl).follow_stays rfl ?_
  simp [h.ck, h.dt, hear, Wire.low, ckOf, dtOf]

theorem stopTest_released (h : Stands c x dr .stopTest (.inside bits false) ⟨false, false⟩ ⟨false, true⟩) :
    Stands (lineMove (.release .cuedt) c) x dr .made (.ended bits) ⟨false, false⟩ ⟨false, false⟩ := by
  rw [lineMove_follow (h.notDue nofun nofun)]
  refine (h.others_dt false).follow_turns (q := .made) rfl ?_
  simp [h.ck, h.dt, hear, Wire.low]

theorem stopTest_pulled (h : Stands c x dr .stopTest (.inside bits false) ⟨false, false⟩ ⟨false, true⟩)
    (hlen : bits.length = 7) :
    Stands (lineMove (.pull .cueck) c) x dr .lost (.ended (bits ++ [false])) ⟨false, true⟩ ⟨false, true⟩ := by
  rw [lineMove_follow (h.notDue nofun nofun)]
  refine (h.others_ck true).follow_turns (q := .lost) rfl ?_
  simp [h.ck, h.dt, hear, Wire.low, hlen]

end Transitions
end Sys2Proof.Machine
end

section
/-! PROOF. The cue line: the rows act after their moves, and the part's own frame on the wires (R103 to R110, R113). -/

namespace Sys2Proof.Machine

/-! ### A row acts after its moves -/

section Rows

variable (ms : List LineMove) (s : State)

theorem startCondition_moves : startCondition ms s = startCondition [] (moveLine ms s) := by
  simp only [startCondition, moveLine, lineMoves_append, List.nil_append, setCue_cue]
  rfl

theorem stuckLineReleased_moves (l : CueLine) :
    stuckLineReleased l ms s = stuckLineReleased l [] (moveLine ms s) := by
  simp only [stuckLineReleased, moveLine, lineMoves_append, List.nil_append, setCue_cue]
  rfl

end Rows

/-! ### The frame sent with nobody else on the line -/

section Uncontested

variable {c : CueController} {x : HalfPeriod} {dr : Nat → Bool}

theorem drivesBit_seven (c : CueController) {j : Nat} (h : 7 ≤ j) : drivesBit c j = true := by
  have hlen : (headBits c)[j]? = none := by
    refine List.getElem?_eq_none (le_trans ?_ h)
    unfold headBits
    split
    · exact Nat.zero_le _
    · exact (frameBits_length _).le
  rw [drivesBit, hlen]

theorem drivesBit_cons {q : SendEntry} {rest : List SendEntry} (h : c.sendQ = q :: rest) (j : Nat) :
    drivesBit c j = !(frameBits q.cue).getD j false := by
  simp only [drivesBit, headBits, h, List.getD_eq_getElem?_getD]
  cases (frameBits q.cue)[j]? <;> rfl

theorem drivesBit_nil (h : c.sendQ = []) (j : Nat) : drivesBit c j = true := by
  simp only [drivesBit, headBits, h, List.getElem?_nil]

/-- The bits of the head's frame up to one more. -/
theorem take_frameBits {q : SendEntry} {rest : List SendEntry} (h : c.sendQ = q :: rest) {j : Nat} (hj : j < 7) :
    (frameBits q.cue).take j ++ [!drivesBit c j] = (frameBits q.cue).take (j + 1) := by
  rw [List.take_add_one, drivesBit_cons h, Bool.not_not, List.getD_eq_getElem?_getD,
    List.getElem?_eq_getElem (by rw [frameBits_length]; exact hj)]
  rfl

theorem lineMoves_replicate_succ (k : Nat) (m : LineMove) (c : CueController) :
    lineMoves (List.replicate (k + 1) m) c = lineMove m (lineMoves (List.replicate k m) c) := by
  rw [List.replicate_succ', lineMoves_append]
  rfl

/-- The low half of bit `j` begins 2j + 1 holds after the start, its high half one later. -/
theorem sent_halves {q : SendEntry} {rest : List SendEntry} (hq : c.sendQ = q :: rest)
    (h : Stands c x (drivesBit c) .startHold (.inside [] true) ⟨false, false⟩ ⟨true, false⟩) (j : Nat) (hj : j ≤ 7) :
    Stands (lineMoves (List.replicate (2 * j + 1) .holdEnds) c) x (drivesBit c) (.low j)
      (.inside ((frameBits q.cue).take j) false) ⟨true, false⟩ ⟨drivesBit c j, false⟩ ∧
    Stands (lineMoves (List.replicate (2 * j + 2) .holdEnds) c) x (drivesBit c) (.high j)
      (.inside ((frameBits q.cue).take j) false) ⟨false, false⟩ ⟨drivesBit c j, false⟩ := by
  suffices hlow : Stands (lineMoves (List.replicate (2 * j + 1) .holdEnds) c) x (drivesBit c) (.low j)
      (.inside ((frameBits q.cue).take j) false) ⟨true, false⟩ ⟨drivesBit c j, false⟩ by
    refine ⟨hlow, ?_⟩
    rw [lineMoves_replicate_succ]
    simpa using low_ends_risen hlow
  induction j with
  | zero => exact startHold_ends h
  | succ j ih =>
    have hlow := ih (by omega)
    have hhigh := low_ends_risen hlow
    rw [← lineMoves_replicate_succ, Bool.and_false] at hhigh
    have hnext := high_ends hhigh (by omega) (by simp; omega) (Bool.and_false _)
    rw [← lineMoves_replicate_succ, take_frameBits hq (by omega)] at hnext
    exact hnext

/-- The stop is made 17 holds after the start. -/
theorem sent_made {q : SendEntry} {rest : List SendEntry} (hq : c.sendQ = q :: rest)
    (h : Stands c x (drivesBit c) .startHold (.inside [] true) ⟨false, false⟩ ⟨true, false⟩) :
    Stands (lineMoves (List.replicate 17 .holdEnds) c) x (drivesBit c) .made (.ended (frameBits q.cue)) ⟨false, false⟩
      ⟨false, false⟩ := by
  have hhigh := (sent_halves hq h 7 (by decide)).2
  rw [drivesBit_seven c (Nat.le_refl 7), List.take_of_length_le (by rw [frameBits_length])] at hhigh
  rw [lineMoves_replicate_succ]
  exact stop_ends hhigh

/-- The level the frame has CUEDT at after `k` holds. -/
theorem drivesBit_after {q : SendEntry} {rest : List SendEntry} (hq : c.sendQ = q :: rest) {k : Nat} (hk : k ≠ 0) :
    drivesBit c ((k - 1) / 2) = (decide (k = 0 ∨ 15 ≤ k) || !(frameBits q.cue).getD ((k - 1) / 2) false) := by
  by_cases hstop : 15 ≤ k
  · rw [drivesBit_seven c (by omega)]
    simp [hstop]
  · rw [drivesBit_cons hq]
    simp [hk, hstop]

/-- What is read back of the levels: the idle timer is at 2H with the line idle only, a stuck report is kept for a
wire read low only (R106, R116). -/
def TimersRead (c : CueController) : Prop :=
  (c.idleEnough = true → lineIdle c = true) ∧ (c.stuckCk = true → c.ck.low = true) ∧
    (c.stuckDt = true → c.dt.low = true)

theorem timersRead_readTimers (c : CueController) : TimersRead (readTimers c) :=
  ⟨fun h => (Bool.and_eq_true_iff.mp h).2, fun h => (Bool.and_eq_true_iff.mp h).2,
    fun h => (Bool.and_eq_true_iff.mp h).2⟩

theorem timersRead_lineMove {m : LineMove} (h : rowDue c = false) : TimersRead (lineMove m c) := by
  rw [lineMove_follow h]
  exact timersRead_readTimers _

/-- A controller that has come to a frame's end with both wires high keeps no timer and no report. -/
theorem eq_of_ended {d : CueController} {f : Option Frame} {bits : List Bool}
    (hkept : d.sendQ = c.sendQ ∧ d.delivery = c.delivery ∧ d.trig0 = c.trig0 ∧ d.trig1 = c.trig1)
    (hf : d.inFlight = f) (hr : d.receiver = .ended bits) (hck : d.ck = ⟨false, false⟩) (hdt : d.dt = ⟨false, false⟩)
    (htimers : TimersRead d) : d = { c with
      inFlight := f
      receiver := .ended bits
      ck := ⟨false, false⟩
      dt := ⟨false, false⟩
      idleEnough := false
      stuckCk := false
      stuckDt := false } := by
  obtain ⟨hidle, hstuckCk, hstuckDt⟩ := htimers
  have hidle' : d.idleEnough = false := by
    refine Bool.eq_false_iff.mpr fun h => ?_
    have hline := hidle h
    rw [lineIdle, hr] at hline
    simp at hline
  have hstuckCk' : d.stuckCk = false := Bool.eq_false_iff.mpr fun h => by
    have hlow := hstuckCk h
    rw [hck] at hlow
    cases hlow
  have hstuckDt' : d.stuckDt = false := Bool.eq_false_iff.mpr fun h => by
    have hlow := hstuckDt h
    rw [hdt] at hlow
    cases hlow
  obtain ⟨hsendQ, hdelivery, htrig0, htrig1⟩ := hkept
  clear hidle hstuckCk hstuckDt
  cases d
  simp only at hsendQ hdelivery htrig0 htrig1 hf hr hck hdt hidle' hstuckCk' hstuckDt'
  subst hsendQ hdelivery htrig0 htrig1 hf hr hck hdt hidle' hstuckCk' hstuckDt'
  rfl

end Uncontested

end Sys2Proof.Machine

namespace Sys2Proof.Proofs

open Sys2Proof.Machine

/-- Settles O27: the rows after their moves; the uncontested frame half by half; and each transition of a contested
one. -/
theorem frameOnTheWires : Obligations.FrameOnTheWires := by
  refine ⟨fun ms l onB s h => ?rows, fun m c => ⟨?_, ?_, ?_, ?_⟩, fun c x q rest hf hq hck hdt hr => ?uncontested,
    fun c x j bits _ => ?contested⟩
  case rows =>
    have hact : ∀ {c d : Instr}, (∀ t, Between t → exec c t = .next (actionOf c t)) →
        (∀ t, Between t → exec d t = .next (actionOf d t)) → actionOf c s = actionOf d (moveLine ms s) →
        exec c s = exec d (moveLine ms s) := fun hc hd heq => by
      rw [hc s h, hd (moveLine ms s) h, heq]
    refine ⟨hact ?_ ?_ rfl, hact ?_ ?_ rfl, hact ?_ ?_ rfl, hact ?_ ?_ rfl, hact ?_ ?_ rfl, hact ?_ ?_ rfl,
      hact ?_ ?_ (startCondition_moves ms s), hact ?_ ?_ (stuckLineReleased_moves ms s l)⟩ <;>
      exact fun t ht => exec_action_between ht rfl rfl
  case uncontested =>
    have hstart : Stands c x (drivesBit c) .startHold (.inside [] true) ⟨false, false⟩ ⟨true, false⟩ :=
      ⟨hf, hr, hck, hdt, rfl⟩
    refine ⟨fun k hk => ?_, ?_⟩
    · obtain ⟨j, rfl | rfl⟩ : ∃ j, k = 2 * j ∨ k = 2 * j + 1 := ⟨k / 2, by omega⟩
      · cases j with
        | zero => exact ⟨hck, hdt, by simp [hf]⟩
        | succ j =>
          obtain ⟨-, hhigh⟩ := sent_halves hq hstart j (by omega)
          have hj : (2 * (j + 1) - 1) / 2 = j := by omega
          refine ⟨hhigh.ck.trans (by simp), hhigh.dt.trans ?_, fun hnone => nomatch hhigh.inFlight.symm.trans hnone⟩
          rw [← drivesBit_after hq (by omega), hj]
      · obtain ⟨hlow, -⟩ := sent_halves hq hstart j (by omega)
        have hj : (2 * j + 1 - 1) / 2 = j := by omega
        refine ⟨hlow.ck.trans (by simp), hlow.dt.trans ?_, fun hnone => nomatch hlow.inFlight.symm.trans hnone⟩
        rw [← drivesBit_after hq (by omega), hj]
    · have hmade := sent_made hq hstart
      obtain ⟨-, hhigh⟩ := sent_halves hq hstart 7 (by decide)
      rw [hck]
      refine eq_of_ended ⟨lineMoves_sendQ c _, lineMoves_delivery c _, lineMoves_trig0 c _, lineMoves_trig1 c _⟩
        hmade.inFlight hmade.receiver hmade.ck hmade.dt ?_
      rw [lineMoves_replicate_succ]
      exact timersRead_lineMove (hhigh.notDue nofun nofun)
  case contested =>
    intro drives comes
    have hdrives : drives = drivesBit c := by
      funext k
      cases hq : c.sendQ with
      | nil => simp only [drives, hq, drivesBit_nil hq]
      | cons h rest => simp only [drives, hq, drivesBit_cons hq]
    clear_value drives
    subst hdrives
    have hcomes : ∀ {m p r ck dt}, Stands (lineMove m c) x (drivesBit c) p r ck dt → comes m p r ck dt :=
      fun h => ⟨h.inFlight, h.receiver, h.ck, h.dt⟩
    clear_value comes
    obtain ⟨e, he⟩ : ∃ e, c.dt.others = e := ⟨_, rfl⟩
    have hwire : ∀ {own}, c.dt.own = own → c.dt = ⟨own, e⟩ := fun h => by rw [← h, ← he]
    refine ⟨fun hf hck hdt hr => ?startHold, fun hr hdt => ?bit, fun hf hr hlen hck hdt => ?stopTest⟩
    case startHold =>
      have h : Stands c x (drivesBit c) .startHold (.inside [] true) ⟨false, false⟩ ⟨true, e⟩ :=
        ⟨hf, hr, hck, hwire hdt, rfl⟩
      rw [he]
      exact ⟨hcomes (startHold_ends h), hcomes (startHold_pulled h)⟩
    case bit =>
      have hat : ∀ {p ck}, c.inFlight = some ⟨x, p⟩ → c.ck = ck →
          Stands c x (drivesBit c) p (.inside bits false) ck ⟨drivesBit c j, e⟩ :=
        fun hf hck => ⟨hf, hr, hck, hwire hdt, rfl⟩
      intro lostHere
      have hlostHere : lostHere = (!drivesBit c j && e) := by rw [← he]
      clear_value lostHere
      subst hlostHere
      rw [hr, hwire hdt]
      refine ⟨fun hf => ⟨fun hck => ?_, fun hck => ?_⟩, fun hf hck => ?_, fun hf hj hlen hck hlost => ?_,
        fun hf hj hlen hck => ?_⟩
      · exact hcomes (low_ends_stretched (hat hf hck))
      · exact hcomes (low_ends_risen (hat hf hck))
      · rw [hck]
        exact ⟨hcomes (wait_ends (hat hf hck)), hcomes (wait_released (hat hf hck))⟩
      · refine ⟨hcomes (high_ends (hat hf hck) hj hlen hlost), hcomes (high_pulled (hat hf hck) hj hlen hlost),
          fun hdr => hcomes (high_dtPulled (hat hf hck) hdr ?_)⟩
        simpa [hdr] using hlost
      · subst hj
        have h := hat hf hck
        rw [drivesBit_seven c (Nat.le_refl 7)] at h
        exact ⟨hcomes (stop_ends h), hcomes (stop_pulled h hlen)⟩
    case stopTest =>
      have h : Stands c x (drivesBit c) .stopTest (.inside bits false) ⟨false, false⟩ ⟨false, true⟩ :=
        ⟨hf, hr, hck, hdt, rfl⟩
      rw [hr]
      exact ⟨hcomes (stopTest_ends h), hcomes (stopTest_released h), hcomes (stopTest_pulled h hlen)⟩
  all_goals simp

end Sys2Proof.Proofs
end

section
/-! PROOF. Every step keeps wires, sender and receiver of the cue line in agreement (R103 to R110, R113, R116). -/

namespace Sys2Proof.Machine

/-! ### Where a frame in flight stands -/

/-- The bits a frame sends and the bits for which CUEDT is driven low agree; the stop's halves follow. -/
structure Sends (dr : Nat → Bool) (bits : List Bool) : Prop where
  length : bits.length = 7
  bit : ∀ j, j < 7 → bits.take j ++ [!dr j] = bits.take (j + 1)
  stop : dr 7 = true

theorem sends_head {c : CueController} (h : c.sendQ ≠ []) : Sends (drivesBit c) (headBits c) := by
  obtain ⟨q, rest, hq⟩ := List.exists_cons_of_ne_nil h
  have hbits : headBits c = frameBits q.cue := by simp only [headBits, hq]
  exact ⟨by rw [hbits, frameBits_length], fun j hj => by rw [hbits, take_frameBits hq hj],
    drivesBit_seven c (Nat.le_refl 7)⟩

/-- The receiver and the wires in each phase of a frame that sends `bits`. -/
inductive OnLine (dr : Nat → Bool) (bits : List Bool) : SendPhase → Receiver → Wire → Wire → Prop
  | startHold (e : Bool) : OnLine dr bits .startHold (.inside [] true) ⟨false, false⟩ ⟨true, e⟩
  | low {j : Nat} (hj : j ≤ 7) (k e : Bool) :
    OnLine dr bits (.low j) (.inside (bits.take j) false) ⟨true, k⟩ ⟨dr j, e⟩
  | wait {j : Nat} (hj : j ≤ 7) (e : Bool) :
    OnLine dr bits (.wait j) (.inside (bits.take j) false) ⟨false, true⟩ ⟨dr j, e⟩
  | high {j : Nat} (hj : j ≤ 7) (e : Bool) (he : (!dr j && e) = false) :
    OnLine dr bits (.high j) (.inside (bits.take j) false) ⟨false, false⟩ ⟨dr j, e⟩
  | stopTest : OnLine dr bits .stopTest (.inside bits false) ⟨false, false⟩ ⟨false, true⟩
  | made {r : Receiver} (hr : r = .ended bits ∨ r = .outside) (k e : Bool) :
    OnLine dr bits .made r ⟨false, k⟩ ⟨false, e⟩
  | lost (r : Receiver) (k e : Bool) : OnLine dr bits .lost r ⟨false, k⟩ ⟨false, e⟩

theorem wire_eq {w : Wire} {b : Bool} (h : w.own = b) : w = ⟨b, w.others⟩ := by rw [← h]

theorem phaseOk_iff (c : CueController) (p : SendPhase) :
    PhaseOk c p ↔ OnLine (drivesBit c) (headBits c) p c.receiver c.ck c.dt := by
  constructor
  · intro h
    cases p with
    | startHold =>
      obtain ⟨hck, hdt, hr⟩ := h
      rw [hck, wire_eq hdt, hr]
      exact .startHold _
    | low j =>
      obtain ⟨hj, hck, hdt, hr⟩ := h
      rw [wire_eq hck, wire_eq hdt, hr]
      exact .low hj _ _
    | wait j =>
      obtain ⟨hj, hck, hdt, hr⟩ := h
      rw [hck, wire_eq hdt, hr]
      exact .wait hj _
    | high j =>
      obtain ⟨hj, hck, hdt, hlow, hr⟩ := h
      rw [hck, wire_eq hdt, hr]
      refine .high hj _ ?_
      rw [Wire.low, hdt] at hlow
      cases hd : drivesBit c j <;> simp_all
    | stopTest =>
      obtain ⟨hck, hdt, hr⟩ := h
      rw [hck, hdt, hr]
      exact .stopTest
    | made =>
      obtain ⟨hck, hdt, hr⟩ := h
      rw [wire_eq hck, wire_eq hdt]
      exact .made hr _ _
    | lost =>
      obtain ⟨hck, hdt⟩ := h
      rw [wire_eq hck, wire_eq hdt]
      exact .lost _ _ _
  · intro h
    generalize hr : c.receiver = r at h
    generalize hck : c.ck = ck at h
    generalize hdt : c.dt = dt at h
    cases h with
    | startHold e => exact ⟨hck, congrArg Wire.own hdt, hr⟩
    | low hj => exact ⟨hj, congrArg Wire.own hck, congrArg Wire.own hdt, hr⟩
    | wait hj => exact ⟨hj, hck, congrArg Wire.own hdt, hr⟩
    | high hj e he =>
      refine ⟨hj, hck, congrArg Wire.own hdt, ?_, hr⟩
      rw [hdt, high_reads he]
    | stopTest => exact ⟨hck, hdt, hr⟩
    | made hr' => exact ⟨congrArg Wire.own hck, congrArg Wire.own hdt, by rwa [hr]⟩
    | lost => exact ⟨congrArg Wire.own hck, congrArg Wire.own hdt⟩

/-- A frame in flight stands in some phase as it must. -/
def GoesOn (c : CueController) (x : HalfPeriod) (dr : Nat → Bool) (bits : List Bool) : Prop :=
  ∃ p r ck dt, Stands c x dr p r ck dt ∧ OnLine dr bits p r ck dt

section Moves

variable {c : CueController} {x : HalfPeriod} {dr : Nat → Bool} {bits : List Bool} {p : SendPhase} {r : Receiver}
  {ck dt : Wire} {m : LineMove}

theorem Stands.goesOn (h : Stands c x dr p r ck dt) (ho : OnLine dr bits p r ck dt) : GoesOn c x dr bits :=
  ⟨p, r, ck, dt, h, ho⟩

/-- A move that changes nothing the sender or the receiver acts on. -/
theorem goesOn_stays (hdue : rowDue c = false) (hm : Stands (moved m c) x dr p r ck dt)
    (hs : sensed ck.low dt.low dr p = none) (hr : hear (!c.ck.low) (!c.dt.low) (!ck.low) (!dt.low) r = r)
    (ho : OnLine dr bits p r ck dt) : GoesOn (lineMove m c) x dr bits := by
  rw [lineMove_follow hdue]
  exact (hm.follow_stays hs hr).goesOn ho

theorem goesOn_risen {j : Nat} {e : Bool} (hj : j ≤ 7)
    (h : Stands c x dr (if (!dr j && e) = true then .lost else .high j) (.inside (bits.take j) false) ⟨false, false⟩
      ⟨dr j, e⟩) : GoesOn c x dr bits := by
  cases hlost : !dr j && e with
  | true =>
    have hd : dr j = false := by
      rw [Bool.and_eq_true, Bool.not_eq_true'] at hlost
      exact hlost.1
    rw [hlost, hd] at h
    exact h.goesOn (.lost _ _ _)
  | false =>
    rw [hlost] at h
    exact h.goesOn (.high hj e hlost)

theorem Stands.idle (h : Stands c x dr p r ck dt) : Stands (moved .idleEnough c) x dr p r ck dt :=
  ⟨h.inFlight, h.receiver, h.ck, h.dt, h.drives⟩

theorem goesOn_startHold {e : Bool} (h : Stands c x dr .startHold (.inside [] true) ⟨false, false⟩ ⟨true, e⟩) :
    GoesOn (lineMove m c) x dr bits := by
  have hdue := h.notDue nofun nofun
  have hstays : ∀ e', Stands (moved m c) x dr .startHold (.inside [] true) ⟨false, false⟩ ⟨true, e'⟩ →
      GoesOn (lineMove m c) x dr bits := fun e' hm =>
    goesOn_stays hdue hm rfl (by simp [h.ck, h.dt, Wire.low, hear]) (.startHold e')
  cases m with
  | pull l =>
    cases l with
    | cueck => exact (startHold_pulled h).goesOn (.low (Nat.zero_le _) _ _)
    | cuedt => exact hstays _ (h.others_dt true)
  | release l =>
    cases l with
    | cueck => exact hstays _ (h.others_ck false)
    | cuedt => exact hstays _ (h.others_dt false)
  | holdEnds => exact (startHold_ends h).goesOn (.low (Nat.zero_le _) _ _)
  | idleEnough => exact hstays _ h.idle

theorem goesOn_low {j : Nat} {k e : Bool} (hj : j ≤ 7)
    (h : Stands c x dr (.low j) (.inside (bits.take j) false) ⟨true, k⟩ ⟨dr j, e⟩) :
    GoesOn (lineMove m c) x dr bits := by
  have hdue := h.notDue nofun nofun
  have hstays : ∀ k' e', Stands (moved m c) x dr (.low j) (.inside (bits.take j) false) ⟨true, k'⟩ ⟨dr j, e'⟩ →
      GoesOn (lineMove m c) x dr bits := fun k' e' hm =>
    goesOn_stays hdue hm rfl (by simp [h.ck, Wire.low, hear]) (.low hj k' e')
  cases m with
  | pull l =>
    cases l with
    | cueck => exact hstays _ _ (h.others_ck true)
    | cuedt => exact hstays _ _ (h.others_dt true)
  | release l =>
    cases l with
    | cueck => exact hstays _ _ (h.others_ck false)
    | cuedt => exact hstays _ _ (h.others_dt false)
  | holdEnds =>
    cases k with
    | true => exact (low_ends_stretched h).goesOn (.wait hj e)
    | false => exact goesOn_risen hj (low_ends_risen h)
  | idleEnough => exact hstays _ _ h.idle

theorem goesOn_wait {j : Nat} {e : Bool} (hj : j ≤ 7)
    (h : Stands c x dr (.wait j) (.inside (bits.take j) false) ⟨false, true⟩ ⟨dr j, e⟩) :
    GoesOn (lineMove m c) x dr bits := by
  have hdue := h.notDue nofun nofun
  have hstays : ∀ e', Stands (moved m c) x dr (.wait j) (.inside (bits.take j) false) ⟨false, true⟩ ⟨dr j, e'⟩ →
      GoesOn (lineMove m c) x dr bits := fun e' hm =>
    goesOn_stays hdue hm rfl (by simp [h.ck, Wire.low, hear]) (.wait hj e')
  cases m with
  | pull l =>
    cases l with
    | cueck => exact hstays _ (h.others_ck true)
    | cuedt => exact hstays _ (h.others_dt true)
  | release l =>
    cases l with
    | cueck => exact goesOn_risen hj (wait_released h)
    | cuedt => exact hstays _ (h.others_dt false)
  | holdEnds => exact (wait_ends h).goesOn (.wait hj e)
  | idleEnough => exact hstays _ h.idle

theorem goesOn_high {j : Nat} {e : Bool} (hb : Sends dr bits) (hj : j ≤ 7) (he : (!dr j && e) = false)
    (h : Stands c x dr (.high j) (.inside (bits.take j) false) ⟨false, false⟩ ⟨dr j, e⟩) :
    GoesOn (lineMove m c) x dr bits := by
  have hdue := h.notDue nofun nofun
  have hlen : (bits.take j).length = j := by
    rw [List.length_take, hb.length]
    omega
  have hread : c.dt.low = dr j := by rw [h.dt, high_reads he]
  have hstays : ∀ e', (!dr j && e') = false →
      Stands (moved m c) x dr (.high j) (.inside (bits.take j) false) ⟨false, false⟩ ⟨dr j, e'⟩ →
      GoesOn (lineMove m c) x dr bits := fun e' he' hm => by
    refine goesOn_stays hdue hm ?_ ?_ (.high hj e' he')
    · rw [high_reads he']
      simp [sensed, Wire.low]
    · rw [h.ck, hread, high_reads he', hear_same]
  have hstop : j = 7 → Stands c x dr (.high 7) (.inside bits false) ⟨false, false⟩ ⟨true, e⟩ := fun h7 => by
    subst h7
    rwa [List.take_of_length_le hb.length.le, hb.stop] at h
  cases m with
  | pull l =>
    cases l with
    | cueck =>
      obtain hj | h7 := Nat.lt_or_eq_of_le hj
      · have hnext := high_pulled h hj hlen he
        rw [hb.bit j hj] at hnext
        exact hnext.goesOn (.low hj _ _)
      · exact (stop_pulled (hstop h7) hb.length).goesOn (.lost _ _ _)
    | cuedt =>
      cases hd : dr j with
      | true => exact hstays true (by rw [hd]; rfl) (h.others_dt true)
      | false =>
        have he0 : e = false := by simpa [hd] using he
        exact (high_dtPulled h hd he0).goesOn (.lost _ _ _)
  | release l =>
    cases l with
    | cueck => exact hstays e he (h.others_ck false)
    | cuedt => exact hstays false (Bool.and_false _) (h.others_dt false)
  | holdEnds =>
    obtain hj | h7 := Nat.lt_or_eq_of_le hj
    · have hnext := high_ends h hj hlen he
      rw [hb.bit j hj] at hnext
      exact hnext.goesOn (.low hj _ _)
    · have hends := stop_ends (hstop h7)
      cases e with
      | true => exact hends.goesOn .stopTest
      | false => exact hends.goesOn (.made (.inl rfl) _ _)
  | idleEnough => exact hstays e he h.idle

theorem goesOn_stopTest (hb : Sends dr bits)
    (h : Stands c x dr .stopTest (.inside bits false) ⟨false, false⟩ ⟨false, true⟩) :
    GoesOn (lineMove m c) x dr bits := by
  have hdue := h.notDue nofun nofun
  have hstays : Stands (moved m c) x dr .stopTest (.inside bits false) ⟨false, false⟩ ⟨false, true⟩ →
      GoesOn (lineMove m c) x dr bits := fun hm =>
    goesOn_stays hdue hm rfl (by simp [h.ck, h.dt, Wire.low, hear]) .stopTest
  cases m with
  | pull l =>
    cases l with
    | cueck => exact (stopTest_pulled h hb.length).goesOn (.lost _ _ _)
    | cuedt => exact hstays (h.others_dt true)
  | release l =>
    cases l with
    | cueck => exact hstays (h.others_ck false)
    | cuedt => exact (stopTest_released h).goesOn (.made (.inl rfl) _ _)
  | holdEnds => exact (stopTest_ends h).goesOn (.lost _ _ _)
  | idleEnough => exact hstays h.idle

/-- A move of the line takes a frame in flight from phase to phase. -/
theorem GoesOn.move (hb : Sends dr bits) (h : GoesOn c x dr bits) (m : LineMove) :
    GoesOn (lineMove m c) x dr bits := by
  obtain ⟨p, r, ck, dt, hs, ho⟩ := h
  cases ho with
  | startHold e => exact goesOn_startHold hs
  | low hj k e => exact goesOn_low hj hs
  | wait hj e => exact goesOn_wait hj hs
  | high hj e he => exact goesOn_high hb hj he hs
  | stopTest => exact goesOn_stopTest hb hs
  | made hr k e =>
    rw [lineMove_due c (by simp [rowDue, hs.inFlight])]
    exact hs.goesOn (.made hr k e)
  | lost r k e =>
    rw [lineMove_due c (by simp [rowDue, hs.inFlight])]
    exact hs.goesOn (.lost r k e)

end Moves

/-! ### The line while the part runs -/

/-- Timers and reports as read from the wires; CUEDT driven for a frame in flight only, which stands as its phase
says. -/
structure LineGood (c : CueController) : Prop where
  timers : TimersRead c
  quiet : c.inFlight = none → c.dt.own = false
  frame : ∀ f, c.inFlight = some f → c.sendQ ≠ [] ∧ PhaseOk c f.phase

theorem lineGood_iff {s : State} (hr : s.resetHeld = false) : LineOk s ↔ LineGood s.cue := by
  constructor
  · intro h
    obtain ⟨hidle, hck, hdt, hquiet, hframe⟩ := h hr
    exact ⟨⟨hidle, hck, hdt⟩, hquiet, hframe⟩
  · rintro ⟨⟨hidle, hck, hdt⟩, hquiet, hframe⟩ _
    exact ⟨hidle, hck, hdt, hquiet, hframe⟩

section Line

variable {c : CueController}

theorem LineGood.goesOn (h : LineGood c) {x : HalfPeriod} {p : SendPhase} (hf : c.inFlight = some ⟨x, p⟩) :
    c.sendQ ≠ [] ∧ GoesOn c x (drivesBit c) (headBits c) := by
  obtain ⟨hq, hp⟩ := h.frame _ hf
  exact ⟨hq, Stands.goesOn ⟨hf, rfl, rfl, rfl, rfl⟩ ((phaseOk_iff c p).mp hp)⟩

/-- A frame that goes on from the queue as it was. -/
theorem LineGood.of_goesOn {d : CueController} {x : HalfPeriod} (htimers : TimersRead d) (hq : c.sendQ ≠ [])
    (hsame : d.sendQ = c.sendQ) (hd : GoesOn d x (drivesBit c) (headBits c)) : LineGood d := by
  obtain ⟨p, r, ck, dt, hs, ho⟩ := hd
  refine ⟨htimers, fun hnone => (nomatch hs.inFlight.symm.trans hnone), fun f hf => ⟨by rwa [hsame], ?_⟩⟩
  obtain rfl : ⟨x, p⟩ = f := Option.some.inj (hs.inFlight.symm.trans hf)
  refine (phaseOk_iff d p).mpr ?_
  rw [hs.receiver, hs.ck, hs.dt, drivesBit_congr hsame, headBits_congr hsame]
  exact ho

/-- With no frame in flight only the timers, the reports and CUEDT count. -/
theorem lineGood_none (htimers : TimersRead c) (hf : c.inFlight = none) (hdt : c.dt.own = false) : LineGood c :=
  ⟨htimers, fun _ => hdt, fun _ h => nomatch hf.symm.trans h⟩

theorem LineGood.move (h : LineGood c) (m : LineMove) : LineGood (lineMove m c) := by
  by_cases hdue : rowDue c = true
  · rwa [lineMove_due c hdue]
  have hdue := Bool.eq_false_iff.mpr hdue
  have htimers := timersRead_lineMove (m := m) hdue
  obtain hf | ⟨⟨x, p⟩, hf⟩ := Option.eq_none_or_eq_some c.inFlight
  · have hmoved : (moved m c).inFlight = none ∧ (moved m c).dt.own = false := by
      have hquiet := h.quiet hf
      cases m with
      | pull l => cases l <;> exact ⟨hf, hquiet⟩
      | release l => cases l <;> exact ⟨hf, hquiet⟩
      | holdEnds => simp [moved, holdOver, hf, driveWires, hquiet]
      | idleEnough => exact ⟨hf, hquiet⟩
    refine lineGood_none htimers ?_ ?_ <;> rw [lineMove_follow hdue]
    · rw [follow_inFlight, obey_none hmoved.1, hmoved.1]
    · rw [follow_dt, obey_none hmoved.1, hmoved.2]
  · obtain ⟨hq, hgo⟩ := h.goesOn hf
    exact LineGood.of_goesOn htimers hq (lineMove_sendQ c m) (hgo.move (sends_head hq) m)

theorem LineGood.moves (h : LineGood c) (ms : List LineMove) : LineGood (lineMoves ms c) :=
  lineMoves_keeps (fun m _ h => h.move m) ms c h

/-- The queue behind the head, the delivery list and the triggers are no part of the line. -/
theorem LineGood.congr {d : CueController} (h : LineGood c) (hf : d.inFlight = c.inFlight)
    (hr : d.receiver = c.receiver) (hck : d.ck = c.ck) (hdt : d.dt = c.dt)
    (hidle : d.idleEnough = true → c.idleEnough = true) (hstuck : d.stuckCk = c.stuckCk ∧ d.stuckDt = c.stuckDt)
    (hq : c.inFlight.isSome = true → c.sendQ ≠ [] → d.sendQ ≠ [] ∧ headBits d = headBits c) : LineGood d := by
  obtain ⟨hidle', hstuckCk, hstuckDt⟩ := h.timers
  have hline : lineIdle d = lineIdle c := by simp only [lineIdle, hr, hck, hdt]
  refine ⟨⟨fun h => ?_, fun h => ?_, fun h => ?_⟩, fun h' => ?_, fun f hfd => ?_⟩
  · rw [hline]
    exact hidle' (hidle h)
  · rw [hck]
    exact hstuckCk (hstuck.1 ▸ h)
  · rw [hdt]
    exact hstuckDt (hstuck.2 ▸ h)
  · rw [hdt]
    exact h.quiet (hf ▸ h')
  · rw [hf] at hfd
    obtain ⟨hne, hp⟩ := h.frame f hfd
    obtain ⟨hne', hbits⟩ := hq (by rw [hfd]; rfl) hne
    have hdr : drivesBit d = drivesBit c := by
      funext j
      simp only [drivesBit, hbits]
    refine ⟨hne', (phaseOk_iff d _).mpr ?_⟩
    rw [hdr, hbits, hr, hck, hdt]
    exact (phaseOk_iff c _).mp hp

/-- The receiver put outside, or at a start, once the frame heard has ended. -/
theorem LineGood.setReceiver (h : LineGood c) {r : Receiver} (hended : ∀ bits started, c.receiver ≠ .inside bits started)
    (hout : c.receiver ≠ .outside) (hr : r = .outside ∨ c.receiver = .reopened) : LineGood { c with receiver := r } := by
  obtain ⟨hidle, hstuckCk, hstuckDt⟩ := h.timers
  have hbusy : c.idleEnough = false := Bool.eq_false_iff.mpr fun hi => by
    have hline := hidle hi
    simp only [lineIdle, Bool.and_eq_true, beq_iff_eq] at hline
    exact hout hline.2
  refine ⟨⟨fun hi => absurd (hbusy.symm.trans hi) (by decide), hstuckCk, hstuckDt⟩, h.quiet, fun f hf => ?_⟩
  obtain ⟨hq, hp⟩ := h.frame f hf
  refine ⟨hq, ?_⟩
  cases hphase : f.phase with
  | startHold => exact absurd (hphase ▸ hp).2.2 (hended _ _)
  | low j => exact absurd (hphase ▸ hp).2.2.2 (hended _ _)
  | wait j => exact absurd (hphase ▸ hp).2.2.2 (hended _ _)
  | high j => exact absurd (hphase ▸ hp).2.2.2.2 (hended _ _)
  | stopTest => exact absurd (hphase ▸ hp).2.2 (hended _ _)
  | made =>
    rw [hphase] at hp
    obtain ⟨hck, hdt, hrec⟩ := hp
    refine ⟨hck, hdt, .inr (hr.resolve_right fun hreopened => ?_)⟩
    obtain hrec | hrec := hrec <;> rw [hreopened] at hrec <;> cases hrec
  | lost =>
    rw [hphase] at hp
    exact hp

end Line

end Sys2Proof.Machine
end

section
/-! PROOF. What every row leaves of the cue line: wires, sender and receiver stay in agreement (R103 to R116, R123). -/

namespace Sys2Proof.Machine

section Line

variable {c : CueController}

/-! ### The rows of the line -/

theorem wire_high {w : Wire} (h : w.low = false) : w = ⟨false, false⟩ := by
  obtain ⟨own, others⟩ := w
  simpa [Wire.low] using h

theorem lineIdle_iff : lineIdle c = true ↔ c.ck = ⟨false, false⟩ ∧ c.dt = ⟨false, false⟩ ∧ c.receiver = .outside := by
  simp only [lineIdle, Bool.and_eq_true, Bool.not_eq_true', beq_iff_eq, and_assoc]
  refine ⟨fun ⟨hck, hdt, hr⟩ => ⟨wire_high hck, wire_high hdt, hr⟩, fun ⟨hck, hdt, hr⟩ => ⟨?_, ?_, hr⟩⟩
  · rw [hck]
    rfl
  · rw [hdt]
    rfl

theorem LineGood.beginFrame (h : LineGood c) (x : HalfPeriod) (hq : c.sendQ ≠ []) (hidle : c.idleEnough = true) :
    LineGood (beginFrame x c) := by
  obtain ⟨hck, hdt, hr⟩ := lineIdle_iff.mp (h.timers.1 hidle)
  have hbegun : Stands { c with inFlight := some ⟨x, .startHold⟩ } x (drivesBit c) .startHold .outside
      ⟨false, false⟩ ⟨false, false⟩ := ⟨rfl, hr, hck, hdt, rfl⟩
  refine LineGood.of_goesOn (timersRead_readTimers _) hq (beginFrame_sendQ ..)
    (Stands.goesOn ((hbegun.enter .startHold).follow_stays (b := c) rfl ?_) (.startHold false))
  simp [hck, hdt, Wire.low, ckOf, dtOf, hear]

theorem TimersRead.noFrame (h : TimersRead c) (hdt : c.dt.own = false) (q : List SendEntry) :
    LineGood { c with inFlight := none, sendQ := q } := lineGood_none h rfl hdt

theorem LineGood.atPhase {p : SendPhase} (h : LineGood c) (hp : atPhase p c = true) : PhaseOk c p := by
  simp only [Machine.atPhase] at hp
  cases hf : c.inFlight with
  | none => simp [hf] at hp
  | some f =>
    simp only [hf, beq_iff_eq] at hp
    exact hp ▸ (h.frame f hf).2

theorem LineGood.stuck (h : LineGood c) {l : CueLine} (hl : stuckRuns c l = true) (hf : c.inFlight = none) :
    LineGood (setStuck { c with receiver := .outside } l true) := by
  obtain ⟨hidle, hck, hdt⟩ := h.timers
  simp only [stuckRuns, Bool.and_eq_true] at hl
  obtain ⟨⟨⟨hlow, -⟩, -⟩, -⟩ := hl
  have hbusy : c.idleEnough = true → False := fun hi => by
    obtain ⟨hckHigh, hdtHigh, -⟩ := lineIdle_iff.mp (hidle hi)
    cases l with
    | cueck =>
      rw [wireOf, hckHigh] at hlow
      cases hlow
    | cuedt =>
      rw [wireOf, hdtHigh] at hlow
      cases hlow
  have hquiet := h.quiet hf
  cases l with
  | cueck => exact lineGood_none ⟨fun hi => (hbusy hi).elim, fun _ => hlow, hdt⟩ hf hquiet
  | cuedt => exact lineGood_none ⟨fun hi => (hbusy hi).elim, hck, fun _ => hlow⟩ hf hquiet

theorem headBits_of_head {d : CueController} (h : d.sendQ.head? = c.sendQ.head?) : headBits d = headBits c := by
  unfold headBits
  cases hc : c.sendQ <;> cases hd : d.sendQ <;> simp_all

theorem placeEntry_head (e : SendEntry) {q : List SendEntry} (hq : q ≠ []) :
    (placeEntry e true q).head? = q.head? := by
  obtain ⟨x, rest, rfl⟩ := List.exists_cons_of_ne_nil hq
  by_cases he : e.cue = 0
  · rw [placeEntry_cue0_sending he]
    rfl
  · rw [placeEntry_other true he]
    rfl

end Line

section Steps

variable {s : State}

theorem TimersRead.loseAttempt (h : TimersRead s.cue) (hdt : s.cue.dt.own = false) : LineGood (loseAttempt s).cue := by
  obtain ⟨-, heq⟩ | ⟨x, rest, -, -, heq⟩ | ⟨x, rest, -, -, heq⟩ := loseAttempt_cases s
  · rw [heq]
    exact h.noFrame hdt _
  · rw [heq]
    exact h.noFrame hdt _
  · rw [heq]
    exact h.noFrame hdt _

theorem LineGood.pushCue (h : LineGood s.cue) (cue : Nat) (src : CueSource) : LineGood (pushCue cue src s).cue := by
  by_cases hmerge : Merges cue s.cue.sendQ
  · simp only [Machine.pushCue, pushVerdict_of_merges hmerge]
    exact h
  by_cases hlen : s.cue.sendQ.length < 8
  · rw [pushCue_of_room hmerge hlen]
    refine h.congr rfl rfl rfl rfl id ⟨rfl, rfl⟩ fun hf hq => ?_
    have hhead := placeEntry_head ⟨cue, src, 0⟩ hq
    rw [← hf] at hhead
    refine ⟨fun hnil => ?_, headBits_of_head hhead⟩
    change placeEntry _ _ _ = [] at hnil
    rw [hnil] at hhead
    exact hq (List.head?_eq_none_iff.mp hhead.symm)
  · simp only [Machine.pushCue, pushVerdict_of_full hmerge (Nat.not_lt.mp hlen)]
    exact h

theorem LineGood.pushOrDrop (h : LineGood s.cue) (cue : Nat) (src : CueSource) :
    LineGood (pushOrDrop cue src s).cue := by
  obtain ⟨-, heq⟩ | ⟨-, heq⟩ := pushOrDrop_cases cue src s
  · rw [heq]
    exact h
  · rw [heq]
    exact h.pushCue cue src

theorem keptByEmissions_line : KeptByEmissions fun s => LineGood s.cue where
  setCh := fun _ _ _ h => h
  emit := fun e s h => by
    cases e with
    | record k c i v => exact h
    | push cue src => exact h.pushOrDrop cue src
  clock := fun _ h => h
  due := fun s x _ h => h.congr rfl rfl rfl rfl id ⟨rfl, rfl⟩ fun _ hq => ⟨hq, rfl⟩
  setOpen := fun _ _ h => h

theorem LineGood.frameStart (h : LineGood s.cue) (ms : List LineMove) : LineGood (frameStart ms s).cue := by
  obtain heq | ⟨hq, -, hidle, heq⟩ := frameStart_cases s ms
  · rw [heq]
    exact h.moves ms
  · rw [heq]
    exact (h.moves ms).beginFrame _ (by rwa [lineMoves_sendQ]) hidle

theorem LineGood.frameSent (h : LineGood s.cue) (ms : List LineMove) : LineGood (frameSent ms s).cue := by
  obtain heq | ⟨hp, heq⟩ := frameSent_cases s ms
  · rw [heq]
    exact h.moves ms
  · rw [heq]
    obtain ⟨-, hdt, -⟩ := (h.moves ms).atPhase hp
    exact (h.moves ms).timers.noFrame hdt _

theorem LineGood.arbitrationLost (h : LineGood s.cue) (ms : List LineMove) :
    LineGood (arbitrationLost ms s).cue := by
  obtain heq | ⟨hp, heq⟩ := arbitrationLost_cases s ms
  · rw [heq]
    exact h.moves ms
  · rw [heq]
    obtain ⟨-, hdt⟩ := (h.moves ms).atPhase hp
    exact TimersRead.loseAttempt (s := moveLine ms s) (h.moves ms).timers hdt

theorem LineGood.deliver (h : LineGood s.cue) (cue : Nat) (e : Counter) : LineGood (deliver cue e s).cue := by
  unfold Machine.deliver
  split
  · exact h
  · exact h.congr rfl rfl rfl rfl id ⟨rfl, rfl⟩ fun _ hq => ⟨hq, rfl⟩

theorem LineGood.frameReceived (h : LineGood s.cue) (ms : List LineMove) (onB : Bool) :
    LineGood (frameReceived ms onB s).cue := by
  have hmoves := h.moves ms
  obtain heq | ⟨bits, hr, hout⟩ := frameReceived_cases s ms onB
  · rw [heq]
    exact hmoves
  have hend : LineGood { lineMoves ms s.cue with receiver := .outside } :=
    hmoves.setReceiver (by simp [hr]) (by simp [hr]) (.inl rfl)
  obtain ⟨cue, -, heq⟩ | ⟨why, -, heq⟩ := hout
  · rw [heq]
    exact LineGood.deliver (s := s.setCue { lineMoves ms s.cue with receiver := .outside }) hend cue _
  · rw [heq]
    exact hend

theorem LineGood.startCondition (h : LineGood s.cue) (ms : List LineMove) : LineGood (startCondition ms s).cue := by
  obtain heq | ⟨hr, heq⟩ := startCondition_cases s ms
  · rw [heq]
    exact h.moves _
  · rw [heq]
    exact ((h.moves ms).move (.pull .cuedt)).setReceiver (by simp [hr]) (by simp [hr]) (.inr hr)

theorem LineGood.stalledFrame (h : LineGood s.cue) (ms : List LineMove) : LineGood (stalledFrame ms s).cue := by
  obtain heq | ⟨hstall, heq⟩ := stalledFrame_cases s ms
  · rw [heq]
    exact h.moves ms
  rw [heq]
  obtain ⟨hidle, hck, hdt⟩ := (h.moves ms).timers
  simp only [stallRuns, Bool.and_eq_true, Option.isNone_iff_eq_none] at hstall
  obtain ⟨⟨hinside, -⟩, hf⟩ := hstall
  refine lineGood_none ⟨fun hi => ?_, hck, hdt⟩ hf ((h.moves ms).quiet hf)
  obtain ⟨-, -, hr⟩ := lineIdle_iff.mp (hidle hi)
  simp [hr] at hinside

theorem LineGood.stuckLine (h : LineGood s.cue) (l : CueLine) (ms : List LineMove) :
    LineGood (stuckLine l ms s).cue := by
  obtain heq | ⟨hl, ⟨hf, heq⟩ | ⟨-, heq⟩⟩ := stuckLine_cases s l ms
  · rw [heq]
    exact h.moves ms
  · rw [heq]
    exact (h.moves ms).stuck hl hf
  · rw [heq]
    exact TimersRead.loseAttempt (s := State.setCue _ _) (timersRead_readTimers _) rfl

theorem LineGood.setTrig (h : LineGood s.cue) (t : TrigPin) (g : Trigger) : LineGood (setTrig s.cue t g) := by
  cases t <;> exact h.congr rfl rfl rfl rfl id ⟨rfl, rfl⟩ fun _ hq => ⟨hq, rfl⟩

theorem LineGood.trigEdgeQualified (h : LineGood s.cue) (t : TrigPin) : LineGood (trigEdgeQualified t s).cue := by
  simp only [Machine.trigEdgeQualified]
  split
  · exact h
  · split
    · exact LineGood.pushOrDrop (s := s.setCue (Machine.setTrig s.cue t _)) (h.setTrig t _) _ _
    · exact h.setTrig t _

/-! ### Messages and the other rows -/

theorem LineGood.message {t : State} {k : Kind} (h : LineGood s.cue) (he : MessageEffect s k t)
    (hr : s.resetHeld = false) (ho : s.boundaryOpen = false) (hk : k ≠ .devReset) : LineGood t.cue := by
  have ht := he.touches hr ho
  have hsame : k.blocks.cue = false → LineGood t.cue := fun hb => by
    rwa [ht.cue.resolve_left (by simp [hb])]
  cases he with
  | configured divider hp mode align =>
    exact h.congr rfl rfl rfl rfl (fun hi => (Bool.and_eq_true_iff.mp hi).1) ⟨rfl, rfl⟩ fun _ hq => ⟨hq, rfl⟩
  | restarted => exact absurd rfl hk
  | defaulted => exact absurd rfl hk
  | cueSent => exact h.pushCue _ _
  | trigSet t g => exact h.setTrig t g
  | same => exact h
  | _ => exact hsame rfl

theorem LineGood.restarted : LineGood (devResetPlayback s).state.cue :=
  TimersRead.noFrame (c := { abandonFrame s.cue with delivery := [] })
    (timersRead_readTimers _ : TimersRead (abandonFrame s.cue)) rfl []

theorem LineGood.row {c : Instr} (h : LineGood s.cue) (hc : carriesMessage c = false) :
    LineGood (actionOf c s).cue := by
  have hsame : (rowBlocks c).cue = false → LineGood (actionOf c s).cue := fun hb => by
    rwa [(touches_actionOf hc s).cue.resolve_left (by simp [hb])]
  cases c
  case frameStart ms => exact h.frameStart ms
  case frameSent ms => exact h.frameSent ms
  case arbitrationLost ms => exact h.arbitrationLost ms
  case frameReceived ms onB => exact h.frameReceived ms onB
  case startCondition ms => exact h.startCondition ms
  case stalledFrame ms => exact h.stalledFrame ms
  case stuckLine l ms => exact h.stuckLine l ms
  case stuckLineReleased l ms => exact h.moves _
  case trigPinChange t level => exact h.setTrig t _
  case trigEdgeQualified t => exact h.trigEdgeQualified t
  all_goals exact hsame rfl

theorem lineGood_default {p : Pins} {keeps : Bool} {u : State} (hu : AtDefaults p keeps u) (r : Int) :
    LineGood (evaluateTemp r u).cue := by
  obtain ⟨-, -, hcue, -⟩ := hu.kept r
  rw [hcue, hu.cue]
  exact lineGood_none ⟨fun h => (nomatch h), fun h => (nomatch h), fun h => nomatch h⟩ rfl rfl

end Steps

end Sys2Proof.Machine

namespace Sys2Proof.Proofs

open Sys2Proof.Machine

/-- Settles O59: move by move of the line, then row by row; while RESET# is held low nothing is claimed. -/
theorem lineKept : Obligations.LineKept := by
  have hrunning : ∀ s t : State, s.resetHeld = false → t.resetHeld = false →
      (LineGood s.cue → LineGood t.cue) → LineOk s → LineOk t :=
    fun s t hr hr' h hs => (lineGood_iff hr').mpr (h ((lineGood_iff hr).mp hs))
  refine keptByStep_of_parts ⟨fun _ _ h => h, fun _ _ h => h, fun s t hr ht => ?moment,
    fun k s t hr ho _ hk he => ?message, fun s hr _ => ?restart, fun c s hc hr _ => ?row,
    fun s _ _ _ => ?assert, fun reading s _ _ _ => ?default, fun p s _ => ?fresh⟩
  case moment =>
    obtain ⟨-, -, -, -, hheld, -⟩ := ht.sameOutside
    exact hrunning s t hr (hheld.trans hr) fun h => keptByEmissions_line.moment ht h
  case message =>
    exact hrunning s t hr ((he.touches hr ho).held.trans hr) fun h => h.message he hr ho hk
  case restart => exact hrunning s _ hr hr fun _ => LineGood.restarted
  case row => exact hrunning s _ hr ((touches_actionOf hc s).held.trans hr) fun h => h.row hc
  case assert => exact fun h => nomatch h
  case default =>
    have hu := atDefaults_freshForAll reading s
    obtain ⟨-, -, -, -, -, hr', -⟩ := hu.kept reading
    exact (lineGood_iff hr').mpr (lineGood_default hu reading)
  case fresh =>
    have hu := atDefaults_defaults p s
    obtain ⟨-, -, -, -, -, hr', -⟩ := hu.kept p.reading
    exact (lineGood_iff hr').mpr (lineGood_default hu p.reading)

end Sys2Proof.Proofs
end

section
/-! PROOF. FRAME_START, FRAME_SENT and ARBITRATION_LOST (R106, R108, R111, R118). -/

namespace Sys2Proof.Machine

section Transmitter

variable {s : State} {c : CueController}

/-- The start condition on an idle line: CUEDT falls with CUECK high, and the receiver is inside the frame. -/
theorem beginFrame_idle (x : HalfPeriod) (hidle : lineIdle c = true) : beginFrame x c = { c with
    inFlight := some ⟨x, .startHold⟩
    dt := ⟨true, false⟩
    receiver := .inside [] true
    idleEnough := false
    stuckCk := false } := by
  obtain ⟨hck, hdt, hr⟩ := lineIdle_iff.mp hidle
  cases c
  simp only at hck hdt hr
  subst hck hdt hr
  simp [beginFrame, follow, enterPhase, driveWires, obey, hear, readTimers, lineIdle, Wire.low]

/-- Another part's start condition on an idle line with no frame of the part's own. -/
theorem lineMove_pulled_idle (hf : c.inFlight = none) (hidle : lineIdle c = true) : lineMove (.pull .cuedt) c = { c with
    dt := ⟨false, true⟩
    receiver := .inside [] true
    idleEnough := false
    stuckCk := false } := by
  obtain ⟨hck, hdt, hr⟩ := lineIdle_iff.mp hidle
  have hdue : rowDue c = false := by simp [rowDue, hf, hr]
  rw [lineMove_follow hdue]
  cases c
  simp only at hck hdt hr hf
  subst hck hdt hr hf
  simp [moved, setOthers, follow, obey, hear, readTimers, lineIdle, Wire.low]

theorem frameStart_begins (hq : s.cue.sendQ ≠ []) (hf : s.cue.inFlight = none) (hidle : s.cue.idleEnough = true) :
    frameStart [] s = s.setCue (beginFrame s.dev.half s.cue) := by
  have hguard : (s.cue.sendQ.isEmpty || s.cue.inFlight.isSome || !s.cue.idleEnough) = false := by
    simp [hq, hf, hidle]
  simp only [frameStart, moveLine, lineMoves_nil, setCue_cue, hguard]
  rfl

/-- With nothing to send, a frame in flight or the idle timer short of 2H, no frame begins. -/
theorem frameStart_waits {ms : List LineMove}
    (h : s.cue.sendQ = [] ∨ (lineMoves ms s.cue).inFlight ≠ none ∨ (lineMoves ms s.cue).idleEnough = false) :
    frameStart ms s = moveLine ms s := by
  obtain heq | ⟨hq, hf, hidle, -⟩ := frameStart_cases s ms
  · exact heq
  · obtain h | h | h := h
    · exact absurd h hq
    · exact absurd hf h
    · rw [hidle] at h
      cases h

theorem atPhase_iff {p : SendPhase} : atPhase p c = true ↔ ∃ x, c.inFlight = some ⟨x, p⟩ := by
  unfold atPhase
  cases c.inFlight with
  | none => simp
  | some f =>
    obtain ⟨x, q⟩ := f
    simp

theorem frameSent_made {x : HalfPeriod} (h : s.cue.inFlight = some ⟨x, .made⟩) :
    frameSent [] s = s.setCue { s.cue with inFlight := none, sendQ := s.cue.sendQ.tail } :=
  if_pos (atPhase_iff.mpr ⟨x, h⟩)

theorem frameSent_other (h : ∀ x, s.cue.inFlight ≠ some ⟨x, .made⟩) : frameSent [] s = s :=
  if_neg fun hp => by
    obtain ⟨x, hx⟩ := atPhase_iff.mp hp
    exact h x hx

theorem arbitrationLost_lost {x : HalfPeriod} (h : s.cue.inFlight = some ⟨x, .lost⟩) :
    arbitrationLost [] s = loseAttempt s := if_pos (atPhase_iff.mpr ⟨x, h⟩)

theorem arbitrationLost_other (h : ∀ x, s.cue.inFlight ≠ some ⟨x, .lost⟩) : arbitrationLost [] s = s :=
  if_neg fun hp => by
    obtain ⟨x, hx⟩ := atPhase_iff.mp hp
    exact h x hx

variable {h : SendEntry} {rest : List SendEntry}

/-- The fourth lost attempt removes the head. -/
theorem loseAttempt_fourth (hq : s.cue.sendQ = h :: rest) (h4 : 4 ≤ h.attempts + 1) : loseAttempt s =
    enterEvent .cueLost h.source.channel h.source.step (some (cueSourceValue h.cue h.source))
      (s.setCue { s.cue with inFlight := none, sendQ := rest }) := by
  simp only [loseAttempt, hq]
  exact if_pos h4

/-- An earlier one is counted, and lets a cue 0 entry directly behind go ahead. -/
theorem loseAttempt_earlier (hq : s.cue.sendQ = h :: rest) (h4 : h.attempts + 1 < 4) : loseAttempt s =
    s.setCue { s.cue with
      inFlight := none
      sendQ := yieldToCue0 ({ h with attempts := h.attempts + 1 } :: rest) } := by
  simp only [loseAttempt, hq]
  exact if_neg (Nat.not_le.mpr h4)

theorem yieldToCue0_yields {e : SendEntry} (he : e.cue = 0) : yieldToCue0 (h :: e :: rest) = e :: h :: rest :=
  if_pos he

theorem yieldToCue0_stays (he : ∀ e, rest.head? = some e → e.cue ≠ 0) : yieldToCue0 (h :: rest) = h :: rest := by
  cases rest with
  | nil => rfl
  | cons e rest => exact if_neg (he e rfl)

end Transmitter

end Sys2Proof.Machine

namespace Sys2Proof.Proofs

open Sys2Proof.Machine

/-- Settles O26: one equation per outcome of the three rows. -/
theorem transmitterMoves : Obligations.TransmitterMoves := by
  intro s h c
  have hstart : ∀ ms, exec (.frameStart ms) s = .next (frameStart ms s) := fun ms => exec_action_between h rfl rfl
  have hsent : exec (.frameSent []) s = .next (frameSent [] s) := exec_action_between h rfl rfl
  have hlost : exec (.arbitrationLost []) s = .next (arbitrationLost [] s) := exec_action_between h rfl rfl
  refine ⟨fun hf hidle => ⟨fun hq henough => ?_, ?_⟩, fun hwaits => ?_, fun x hx => ?_, fun hx => ?_, fun hx => ?_,
    fun x e rest hx hq => ⟨fun h4 => ?_, fun h4 => ⟨fun z rest' hrest hz => ?_, fun hz => ?_⟩⟩⟩
  · rw [hstart, frameStart_begins hq hf henough, beginFrame_idle _ hidle]
  · have hmoved : lineMoves [.pull .cuedt] s.cue = _ := lineMove_pulled_idle hf hidle
    rw [hstart, frameStart_waits (by rw [hmoved]; exact .inr (.inr rfl)), moveLine, hmoved]
  · rw [hstart, frameStart_waits hwaits]
    rfl
  · rw [hsent, frameSent_made hx]
  · rw [hsent, frameSent_other hx]
  · rw [hlost, arbitrationLost_other hx]
  · rw [hlost, arbitrationLost_lost hx, loseAttempt_fourth hq h4]
    cases e.source <;> rfl
  · rw [hlost, arbitrationLost_lost hx, loseAttempt_earlier hq h4, hrest, yieldToCue0_yields hz]
  · rw [hlost, arbitrationLost_lost hx, loseAttempt_earlier hq h4, yieldToCue0_stays hz]

end Sys2Proof.Proofs
end

section
/-! PROOF. The receiver on the wires, and its rows (R103, R113 to R115, R125, R127, R128). -/

namespace Sys2Proof.Machine

section Receiver

variable {c : CueController} {m : LineMove} {bits : List Bool} {b : Bool}

theorem notDue_outside (hf : c.inFlight = none) (hr : c.receiver = .outside) : rowDue c = false := by
  simp [rowDue, hf, hr]

theorem notDue_inside (hf : c.inFlight = none) (hr : c.receiver = .inside bits b) : rowDue c = false := by
  simp [rowDue, hf, hr]

theorem moved_receiver (m : LineMove) (c : CueController) : (moved m c).receiver = c.receiver := by
  have henter : ∀ p, (enterPhase p c).receiver = c.receiver := by
    intro p
    unfold enterPhase
    cases c.inFlight with
    | none => rfl
    | some f => cases p <;> rfl
  cases m with
  | pull l => cases l <;> rfl
  | release l => cases l <;> rfl
  | idleEnough => rfl
  | holdEnds =>
    change (holdOver c).receiver = c.receiver
    obtain hf | ⟨⟨x, p⟩, hf⟩ := Option.eq_none_or_eq_some c.inFlight
    · simp only [holdOver, hf]
      rfl
    · rw [holdOver_eq hf]
      cases timed p with
      | none => rfl
      | some q => exact henter q

/-- Nothing that happens while CUECK reads low is heard. -/
theorem lineMove_receiver_ckLow (hck : c.ck.low = true) : (lineMove m c).receiver = c.receiver := by
  by_cases hdue : rowDue c = true
  · rw [lineMove_due c hdue]
  · rw [lineMove_follow (Bool.eq_false_iff.mpr hdue), follow_receiver, hck, moved_receiver]
    exact hear_ckLow _ _ _ _

/-- CUEDT falls with a pull of another part only, when no frame of the part's own is in flight. -/
theorem moved_dt_low (hf : c.inFlight = none) (hm : m ≠ .pull .cuedt) (hdt : c.dt.low = false) :
    (moved m c).dt.low = false := by
  have hwire := wire_high hdt
  cases m with
  | pull l =>
    cases l with
    | cueck => exact hdt
    | cuedt => exact absurd rfl hm
  | release l =>
    cases l with
    | cueck => exact hdt
    | cuedt => simp [moved, setOthers, hwire, Wire.low]
  | holdEnds => simp [moved, holdOver, hf, driveWires, hwire, Wire.low]
  | idleEnough => exact hdt

/-- Outside a frame only a start condition is heard. -/
theorem lineMove_receiver_outside (hf : c.inFlight = none) (hr : c.receiver = .outside) :
    (lineMove m c).receiver = if m = .pull .cuedt ∧ c.ck.low = false ∧ c.dt.low = false
      then .inside [] true else .outside := by
  rw [lineMove_follow (notDue_outside hf hr), follow_receiver, moved_receiver, hr]
  by_cases hm : m = .pull .cuedt
  · subst hm
    have hck : (moved (.pull .cuedt) c).ck = c.ck := rfl
    have hdt : (moved (.pull .cuedt) c).dt.low = true := Bool.or_true _
    rw [hck, hdt]
    cases c.ck.low <;> cases c.dt.low <;> simp [hear]
  · rw [if_neg fun h => hm h.1]
    cases hdt : c.dt.low with
    | true => simp [hear]
    | false => simp [hear, moved_dt_low hf hm hdt]

theorem lineMove_receiver_inside (hf : c.inFlight = none) (hr : c.receiver = .inside bits b) : (lineMove m c).receiver =
    hear (!c.ck.low) (!c.dt.low) (!(moved m c).ck.low) (!(moved m c).dt.low) (.inside bits b) := by
  rw [lineMove_follow (notDue_inside hf hr), follow_receiver, moved_receiver, hr]

/-- CUEDT pulled low by another part, with what the receiver then is. -/
def pulledDt (r : Receiver) (c : CueController) : CueController :=
  { c with
    receiver := r
    dt := ⟨c.dt.own, true⟩
    idleEnough := false
    stuckCk := c.stuckCk && c.ck.low }

/-- What the receiver hears when CUEDT is pulled low. -/
def hearsPull (c : CueController) : Receiver := hear (!c.ck.low) (!c.dt.low) (!c.ck.low) false c.receiver

theorem lineMove_pullDt (hf : c.inFlight = none) (hdue : rowDue c = false) :
    lineMove (.pull .cuedt) c = pulledDt (hearsPull c) c := by
  rw [lineMove_follow hdue]
  cases c
  simp only at hf
  subst hf
  simp [moved, setOthers, follow, obey, readTimers, lineIdle, Wire.low, pulledDt, hearsPull]

theorem hearsPull_start (hck : c.ck.low = false) (hdt : c.dt.low = false) (hr : c.receiver = .outside) :
    hearsPull c = .inside [] true := by
  simp [hearsPull, hck, hdt, hr, hear]

theorem hearsPull_again (hck : c.ck.low = false) (hdt : c.dt.low = false) (hr : c.receiver = .inside bits b) :
    hearsPull c = .reopened := by
  simp [hearsPull, hck, hdt, hr, hear]

/-- No condition: CUECK is low, or CUEDT was. -/
theorem hearsPull_none (h : c.ck.low = true ∨ c.dt.low = true) : hearsPull c = c.receiver := by
  obtain hck | hdt := h
  · rw [hearsPull, hck]
    exact hear_ckLow _ _ _ _
  · rw [hearsPull, hdt]
    exact hear_same _ _ _

end Receiver

section Rows

variable {s : State} {bits : List Bool} {onB : Bool}

theorem judgeFrame_even (hlen : bits.length = 7) (heven : bits.count true % 2 = 0) :
    judgeFrame bits = .valid (cueOfBits (bits.take 6)) := by
  rw [judgeFrame, if_pos hlen, if_pos (show onesOf bits % 2 = 0 from heven)]

theorem judgeFrame_odd (hlen : bits.length = 7) (hodd : bits.count true % 2 = 1) :
    judgeFrame bits = .malformed .parity := by
  rw [judgeFrame, if_pos hlen, if_neg (show ¬ onesOf bits % 2 = 0 by rw [onesOf, hodd]; decide)]

theorem judgeFrame_length (hlen : bits.length ≠ 7) : judgeFrame bits = .malformed .framing := if_neg hlen

theorem frameReceived_valid {cue : Nat} (hr : s.cue.receiver = .ended bits) (hj : judgeFrame bits = .valid cue) :
    frameReceived [] onB s =
      deliver cue (effectiveSample s.dev onB) (s.setCue { s.cue with receiver := .outside }) := by
  simp only [frameReceived, moveLine, lineMoves_nil, setCue_cue, hr, hj]
  rfl

theorem frameReceived_malformed {why : CueErrorReason} (hr : s.cue.receiver = .ended bits)
    (hj : judgeFrame bits = .malformed why) :
    frameReceived [] onB s = cueError why (s.setCue { s.cue with receiver := .outside }) := by
  simp only [frameReceived, moveLine, lineMoves_nil, setCue_cue, hr, hj]
  rfl

theorem frameReceived_other (hr : ∀ bits, s.cue.receiver ≠ .ended bits) : frameReceived [] onB s = s := by
  obtain heq | ⟨bits, h, -⟩ := frameReceived_cases s [] onB
  · exact heq
  · exact absurd h (hr bits)

theorem deliver_room {cue : Nat} {e : Counter} (h : s.cue.delivery.length < 16) :
    deliver cue e s = s.setCue { s.cue with delivery := s.cue.delivery ++ [⟨cue, e⟩] } := if_neg (Nat.not_le.mpr h)

theorem deliver_full {cue : Nat} {e : Counter} (h : 16 ≤ s.cue.delivery.length) :
    deliver cue e s = cueError (.overrun cue) s := if_pos h

/-- The receiver at a start inside a frame: the frame it was inside is malformed. -/
theorem startCondition_reopened (hr : (lineMove (.pull .cuedt) s.cue).receiver = .reopened) :
    startCondition [] s =
      cueError .framing (s.setCue { lineMove (.pull .cuedt) s.cue with receiver := .inside [] true }) := by
  simp only [startCondition, moveLine, List.nil_append, lineMoves_cons, lineMoves_nil, setCue_cue, hr]
  rfl

theorem startCondition_other (hr : (lineMove (.pull .cuedt) s.cue).receiver ≠ .reopened) :
    startCondition [] s = s.setCue (lineMove (.pull .cuedt) s.cue) := by
  obtain heq | ⟨h, -⟩ := startCondition_cases s []
  · exact heq
  · exact absurd h hr

theorem startCondition_pulls (hf : s.cue.inFlight = none) (hdue : rowDue s.cue = false) {r : Receiver}
    (hr : hearsPull s.cue = r) (hne : r ≠ .reopened) : startCondition [] s = s.setCue (pulledDt r s.cue) := by
  have hmove := lineMove_pullDt hf hdue
  rw [hr] at hmove
  rw [startCondition_other (by rw [hmove]; exact hne), hmove]

theorem startCondition_again (hf : s.cue.inFlight = none) (hdue : rowDue s.cue = false)
    (hr : hearsPull s.cue = .reopened) :
    startCondition [] s = cueError .framing (s.setCue (pulledDt (.inside [] true) s.cue)) := by
  have hmove := lineMove_pullDt hf hdue
  rw [hr] at hmove
  rw [startCondition_reopened (by rw [hmove]; rfl), hmove]
  rfl

theorem stallRuns_iff {c : CueController} : stallRuns c = true ↔
    (∃ bits b, c.receiver = .inside bits b) ∧ c.ck.low = false ∧ c.inFlight = none := by
  unfold stallRuns
  cases c.receiver <;> simp

theorem stalledFrame_stalls (h : stallRuns s.cue = true) :
    stalledFrame [] s = cueError .framing (s.setCue { s.cue with receiver := .outside }) := if_pos h

theorem stalledFrame_other (h : ¬ stallRuns s.cue = true) : stalledFrame [] s = s := if_neg h

end Rows

end Sys2Proof.Machine

namespace Sys2Proof.Proofs

open Sys2Proof.Machine

/-- Settles O28: what each move lets the receiver hear, then one equation per outcome of its rows. -/
theorem receiverJudgesFrames : Obligations.ReceiverJudgesFrames := by
  refine ⟨fun m c hf => ⟨lineMove_receiver_ckLow, lineMove_receiver_outside hf, fun bits hck => ⟨fun hr => ?_,
    fun hr => ?_, fun b hr => ⟨fun hdt => ?_, fun hdt => ?_⟩⟩⟩, fun s onB h => ?rows⟩
  · rw [lineMove_receiver_inside hf hr]
    simp [moved, setOthers, hck, Wire.low, hear]
  · rw [lineMove_receiver_inside hf hr]
    have hfall : (moved (.pull .cueck) c).ck.low = true := Bool.or_true _
    rw [hck, hfall]
    split
    · next hlen => exact hear_fall_bit _ _ hlen
    · next hlen => exact hear_fall_eighth _ _ (Nat.not_lt.mp hlen)
  · rw [lineMove_receiver_inside hf hr]
    simp [moved, setOthers, hck, hdt, Wire.low, hear]
  · rw [lineMove_receiver_inside hf hr]
    simp [moved, setOthers, hck, hdt, Wire.low, hear]
  case rows =>
    intro c
    have hreceived : exec (.frameReceived [] onB) s = .next (frameReceived [] onB s) :=
      exec_action_between h rfl rfl
    have hcondition : exec (.startCondition []) s = .next (startCondition [] s) := exec_action_between h rfl rfl
    have hstalled : exec (.stalledFrame []) s = .next (stalledFrame [] s) := exec_action_between h rfl rfl
    rw [hreceived, hcondition, hstalled]
    refine ⟨fun bits hr => ⟨fun hlen heven => ⟨fun hroom => ?_, fun hfull => ?_⟩, fun hlen hodd => ?_, fun hlen => ?_⟩,
      fun hr => ?_, fun hr => ?_, fun hf => ⟨fun hck hdt => ⟨fun hr => ?_, fun bits b hr => ?_⟩, fun hlow hdue => ?_,
        fun bits b hr hck => ?_⟩, fun hno => ?_⟩
    · exact congrArg _ ((frameReceived_valid hr (judgeFrame_even hlen heven)).trans (deliver_room hroom))
    · exact congrArg _ ((frameReceived_valid hr (judgeFrame_even hlen heven)).trans (deliver_full hfull))
    · rw [frameReceived_malformed hr (judgeFrame_odd hlen hodd)]
    · rw [frameReceived_malformed hr (judgeFrame_length hlen)]
    · rw [frameReceived_other hr]
    · have hdue : rowDue s.cue = true := by simp [rowDue, show s.cue.receiver = .reopened from hr]
      rw [startCondition_reopened (by rw [lineMove_due _ hdue]; exact hr), lineMove_due _ hdue]
    · exact congrArg _ (startCondition_pulls hf (notDue_outside hf hr) (hearsPull_start hck hdt hr) nofun)
    · exact congrArg _ (startCondition_again hf (notDue_inside hf hr) (hearsPull_again hck hdt hr))
    · refine congrArg _ (startCondition_pulls hf hdue (hearsPull_none hlow) fun hr => ?_)
      simp [rowDue, hr] at hdue
    · rw [stalledFrame_stalls (stallRuns_iff.mpr ⟨⟨bits, b, hr⟩, hck, hf⟩)]
    · rw [stalledFrame_other fun hstall => ?_]
      obtain ⟨⟨bits, b, hr⟩, hck, hf⟩ := stallRuns_iff.mp hstall
      obtain hno | hno | hno := hno
      · exact hno bits b hr
      · exact absurd (hck.symm.trans hno) (by decide)
      · exact hno hf

end Sys2Proof.Proofs
end

section
/-! PROOF. Stuck lines: one report, and what becomes of the frames, the wires and the head entry (R116). -/

namespace Sys2Proof.Machine

section Stuck

variable {c : CueController} {l : CueLine} {s : State}

theorem stuckRuns_iff : stuckRuns c l = true ↔ (wireOf c l).low = true ∧
    (c.inFlight ≠ none ∨ c.receiver ≠ .outside ∨ c.sendQ ≠ []) ∧ stuckReported c l = false ∧ rowDue c = false := by
  simp only [stuckRuns, stuckCounts, Bool.and_eq_true, Bool.or_eq_true, Bool.not_eq_true', bne_iff_ne, ne_eq,
    Option.isSome_iff_ne_none, List.isEmpty_eq_false_iff, and_assoc, or_assoc]

/-- A line let go by the other parts, with no frame of the part's own. -/
theorem lineMove_release (hf : c.inFlight = none) (hdue : rowDue c = false) (hown : (wireOf c l).own = false) :
    stuckReported (lineMove (.release l) c) l = false ∧ wireOf (lineMove (.release l) c) l = ⟨false, false⟩ ∧
      (lineMove (.release l) c).inFlight = none ∧
      ∀ k, k ≠ l → wireOf (lineMove (.release l) c) k = wireOf c k ∧
        stuckReported (lineMove (.release l) c) k = (stuckReported c k && (wireOf c k).low) := by
  have hmoved : (moved (.release l) c).inFlight = none := by cases l <;> exact hf
  have heq : lineMove (.release l) c = readTimers { moved (.release l) c with
      receiver := (lineMove (.release l) c).receiver } := by
    rw [lineMove_follow hdue, follow_receiver, follow]
    exact congrArg readTimers (obey_none hmoved)
  rw [heq]
  refine ⟨?_, ?_, hmoved, fun k hk => ?_⟩
  · cases l <;> simp only [wireOf] at hown <;> simp [stuckReported, readTimers, moved, setOthers, Wire.low, hown]
  · cases l <;> simp only [wireOf] at hown <;> simp [readTimers, moved, setOthers, wireOf, hown]
  · cases l <;> cases k
    · exact absurd rfl hk
    · exact ⟨rfl, rfl⟩
    · exact ⟨rfl, rfl⟩
    · exact absurd rfl hk

/-- The controller when a line is found stuck. -/
def stuckFound (l : CueLine) (c : CueController) : CueController := setStuck { c with receiver := .outside } l true

theorem stuckLine_quiet (h : ¬ stuckRuns s.cue l = true) : stuckLine l [] s = s := by
  obtain heq | ⟨hl, -⟩ := stuckLine_cases s l []
  · exact heq
  · exact absurd hl h

theorem stuckLine_received (h : stuckRuns s.cue l = true) (hf : s.cue.inFlight = none) :
    stuckLine l [] s = cueError .stuck (s.setCue (stuckFound l s.cue)) := by
  have hnone : s.cue.inFlight.isSome = false := by
    rw [hf]
    rfl
  simp only [stuckLine, moveLine, lineMoves_nil, setCue_cue, h, hnone, if_true, Bool.false_eq_true, if_false]
  rfl

theorem stuckLine_sent (h : stuckRuns s.cue l = true) (hf : s.cue.inFlight ≠ none) :
    stuckLine l [] s = loseAttempt ((cueError .stuck (s.setCue (stuckFound l s.cue))).setCue
      (readTimers (releaseWires (stuckFound l s.cue)))) := by
  simp only [stuckLine, moveLine, lineMoves_nil, setCue_cue, h, Option.isSome_iff_ne_none.mpr hf]
  rfl

/-- Both wires released, what the other parts still hold read back, and no frame in flight. -/
def abandoned (c : CueController) : CueController :=
  { c with
    ck := ⟨false, c.ck.others⟩
    dt := ⟨false, c.dt.others⟩
    idleEnough := c.idleEnough && !c.ck.others && !c.dt.others
    stuckCk := c.stuckCk && c.ck.others
    stuckDt := c.stuckDt && c.dt.others
    inFlight := none }

theorem released_eq (hr : c.receiver = .outside) (q : List SendEntry) :
    { readTimers (releaseWires c) with inFlight := none, sendQ := q } = { abandoned c with sendQ := q } := by
  have hidle : ((releaseWires c).idleEnough && lineIdle (releaseWires c)) =
      (c.idleEnough && !c.ck.others && !c.dt.others) := by
    simp [releaseWires, driveWires, lineIdle, Wire.low, hr, Bool.and_assoc]
  simp only [readTimers, hidle, abandoned]
  rfl

end Stuck

end Sys2Proof.Machine

namespace Sys2Proof.Proofs

open Sys2Proof.Machine

/-- Settles O29: the release of a line, and one equation per outcome of STUCK_LINE. -/
theorem stuckLines : Obligations.StuckLines := by
  intro l s h c
  have hstuck : exec (.stuckLine l []) s = .next (stuckLine l [] s) := exec_action_between h rfl rfl
  refine ⟨exec_action_between h rfl rfl, lineMove_release, fun hquiet => ?_, fun hreported hlow hdue => ?_⟩
  · rw [hstuck, stuckLine_quiet fun hruns => ?_]
    obtain ⟨hlow, hcounts, hreported, hdue⟩ := stuckRuns_iff.mp hruns
    obtain h | h | h | ⟨hf, hr, hq⟩ := hquiet
    · exact absurd (hreported.symm.trans h) (by decide)
    · exact absurd (hlow.symm.trans h) (by decide)
    · exact absurd (hdue.symm.trans h) (by decide)
    · obtain h | h | h := hcounts
      · exact h hf
      · exact h hr
      · exact h hq
  · intro c' t d
    rw [hstuck]
    have hruns := fun hcounts => stuckRuns_iff.mpr ⟨hlow, hcounts, hreported, hdue⟩
    have hd : ∀ q, { readTimers (releaseWires (stuckFound l s.cue)) with inFlight := none, sendQ := q } =
        { d with sendQ := q } := fun q => by
      rw [released_eq (by cases l <;> rfl)]
      cases l <;> rfl
    refine ⟨fun hf hcounts => ?_, fun hf e rest hq => ⟨fun h4 => ?_, fun h4 => ?_⟩⟩
    · exact congrArg _ (stuckLine_received (hruns (.inr hcounts)) hf)
    · rw [stuckLine_sent (hruns (.inl hf)) hf, loseAttempt_fourth (h := e) (rest := rest) (by cases l <;> exact hq) h4,
        setCue_cue, hd]
      rfl
    · rw [stuckLine_sent (hruns (.inl hf)) hf, loseAttempt_earlier (h := e) (rest := rest) (by cases l <;> exact hq) h4,
        setCue_cue, hd]
      rfl

end Sys2Proof.Proofs
end
